-- ==== Sys2Proof/Word.lean ====
section
/-! DEFINITION. The CDU's word: 32 bits, bit 0 the least significant (00_scope.md R10, D2). -/

namespace Sys2Proof

/-- A 32-bit register content; a binary32 value and its pattern are the same content (R11). -/
abbrev Word := BitVec 32

/-- One byte of the register window (R62). -/
abbrev Byte := BitVec 8

end Sys2Proof
end

