-- ==== Sys2Proof/Config.lean ====
section
/-! DEFINITION. What the spec leaves to the implementation: the OPEN parameters of 00_scope.md R9
and 93_implementation_defined.md section 2, and the free values. The opaque constants have no body a
proof can see. -/

namespace Sys2Proof

/-- The transcendental primitives of R13: total functions of binary32 operands, an OPEN parameter
(D11). -/
structure Numerics where
  cbrt  : Word → Word
  /-- `ATAN2(y, x)`: the first argument is y. -/
  atan2 : Word → Word → Word
  sin   : Word → Word
  cos   : Word → Word
  exp   : Word → Word
  deriving Inhabited

/-- One row of a 3×3 matrix, its columns in the spec's order. -/
structure Row where
  c1 : Word
  c2 : Word
  c3 : Word
  deriving DecidableEq, Repr

/-- A 3×3 matrix of binary32 entries. -/
structure Matrix3 where
  r1 : Row
  r2 : Row
  r3 : Row
  deriving DecidableEq, Repr

/-- The named parameters a model takes as arguments (93_implementation_defined.md section 2). -/
structure Params where
  mYuv   : Matrix3
  mXyz   : Matrix3
  rtSign : Word
  num    : Numerics

/-- The basic binary32 operations of R12, as tags for the free NaN patterns. -/
inductive Arith where
  | add
  | sub
  | mul
  | div
  | sqrt
  deriving DecidableEq, Repr

/-- `NUM` of this CDU (R13, OPEN, log 5). -/
opaque Config.num : Numerics

/-- The bits a NaN result is free in: its sign (bit 22) and the fraction bits below the quiet bit
(log 6). They may depend on the operation and on its operands. -/
opaque Config.nanBits : Arith → Word → Word → BitVec 23

/-- `pow24_fn` outside the domain of R115, where it is not defined (log 11). -/
opaque Config.powOutside : Word → Word

/-- What the n-th read during reset returns: R260, "an unspecified value" (log 7). -/
opaque Config.readInReset : Nat → Word

/-- `CDU_BASE` in pages of 4096 bytes (R60, OPEN, log 9). -/
opaque Config.cduBasePage : Nat

/-- `CDU_BASE`: "aligned to 4096 bytes" (R60). -/
def Config.cduBase : Nat := 4096 * Config.cduBasePage

end Sys2Proof
end

