-- ==== Sys2Proof/Machine/Float.lean ====
section
/-! DEFINITION. IEEE-754 binary32 (00_scope.md R11, R12, D10): every operation takes its operands to
exact integers in units of 2^-149, computes there, and rounds once, to nearest, ties to even. Subnormals
are kept (gradual underflow); no exception flags (R43). -/

namespace Sys2Proof.Machine

/-- `w[31]`, the sign (R11). -/
def fsign (w : Word) : Bool := w.getLsbD 31

/-- `w[30:23]`, the biased exponent (R11). -/
def fexp (w : Word) : Nat := w.toNat / 2 ^ 23 % 2 ^ 8

/-- `w[22:0]`, the fraction (R11). -/
def ffrac (w : Word) : Nat := w.toNat % 2 ^ 23

/-- `w[30:0]`: the pattern without its sign, which orders magnitudes. -/
def fmag (w : Word) : Nat := w.toNat % 2 ^ 31

/-- The magnitude pattern of an infinity. -/
def infMag : Nat := 0x7F800000

/-- Neither an infinity nor a NaN (R11). -/
def isFinite (w : Word) : Bool := fmag w < infMag

/-- An infinity. -/
def isInf (w : Word) : Bool := fmag w == infMag

/-- A NaN. -/
def isNaN (w : Word) : Bool := infMag < fmag w

/-- The significand of a finite value as an integer: the hidden bit is 1 unless the exponent field
is 0. -/
def fsig (w : Word) : Nat := if fexp w = 0 then ffrac w else 2 ^ 23 + ffrac w

/-- The magnitude of a finite value in units of 2^-149: the significand at its exponent. -/
def funits (w : Word) : Nat := fsig w * 2 ^ (fexp w - 1)

/-- A finite value in units of 2^-149. -/
def fvalue (w : Word) : Int := if fsign w then -(funits w : Int) else (funits w : Int)

/-- A pattern from a sign and a magnitude pattern. -/
def packSign (s : Bool) (m : Nat) : Word := BitVec.ofNat 32 (if s then 2 ^ 31 + m else m)

/-- `n / d` to the nearest integer, ties to even. -/
def rneDiv (n d : Nat) : Nat :=
  if 2 * (n % d) < d then n / d
  else if d < 2 * (n % d) then n / d + 1
  else n / d + n / d % 2

/-- The magnitude pattern nearest `n / d` units of 2^-149, ties to even; an infinity when the rounded
value does not fit. The exponent is found from the integer part, the significand rounded at that
exponent; a carry out of the significand moves to the next exponent by itself. -/
def roundUnits (n d : Nat) : Nat :=
  let t := Nat.log2 (n / d) - 23
  min (t * 2 ^ 23 + rneDiv n (d * 2 ^ t)) infMag

/-- A NaN result: the quiet NaN whose other bits are free (log 6). -/
def nanOf (op : Arith) (a b : Word) : Word :=
  let f := Config.nanBits op a b
  packSign (f.getLsbD 22) (infMag + 2 ^ 22 + f.toNat % 2 ^ 22)

/-- Negation: exact, only the sign changes (R12). -/
def fneg (w : Word) : Word := packSign (!fsign w) (fmag w)

/-- `abs`: exact (R12). -/
def fabs (w : Word) : Word := packSign false (fmag w)

/-- The sum of two operands, NaN results drawn for the operation named. An exact zero sum is +0 unless
both operands are negative (IEEE-754, round to nearest). -/
def addAs (op : Arith) (a b : Word) : Word :=
  if isNaN a || isNaN b then nanOf op a b
  else if isInf a then (if isInf b && fsign a != fsign b then nanOf op a b else a)
  else if isInf b then b
  else if fvalue a + fvalue b = 0 then packSign (fsign a && fsign b) 0
  else packSign (fvalue a + fvalue b < 0) (roundUnits (fvalue a + fvalue b).natAbs 1)

/-- `a + b` (R12). -/
def fadd (a b : Word) : Word := addAs .add a b

/-- `a - b` (R12). -/
def fsub (a b : Word) : Word := addAs .sub a (fneg b)

/-- `a * b` (R12). -/
def fmul (a b : Word) : Word :=
  let s := fsign a != fsign b
  if isNaN a || isNaN b then nanOf .mul a b
  else if isInf a || isInf b then
    (if fmag a = 0 || fmag b = 0 then nanOf .mul a b else packSign s infMag)
  else packSign s (roundUnits (funits a * funits b) (2 ^ 149))

/-- `a / b` (R12). -/
def fdiv (a b : Word) : Word :=
  let s := fsign a != fsign b
  if isNaN a || isNaN b then nanOf .div a b
  else if isInf a then (if isInf b then nanOf .div a b else packSign s infMag)
  else if isInf b then packSign s 0
  else if fmag b = 0 then (if fmag a = 0 then nanOf .div a b else packSign s infMag)
  else packSign s (roundUnits (funits a * 2 ^ 149) (funits b))

/-- The integer square root, one bit at a time from bit `k - 1` down: the greatest `r` that agrees with
`acc` above those bits and has `r * r ≤ n`. -/
def isqrtFrom (n : Nat) : Nat → Nat → Nat
  | 0, acc => acc
  | k + 1, acc => isqrtFrom n k (if (acc + 2 ^ k) * (acc + 2 ^ k) ≤ n then acc + 2 ^ k else acc)

/-- `sqrt(a)` (R12). The root in units is that of `funits a * 2^149`; twice its integer part, plus 1
when the root is not exact, rounds as the root itself does. -/
def fsqrt (a : Word) : Word :=
  if isNaN a then nanOf .sqrt a 0
  else if fmag a = 0 then a
  else if fsign a then nanOf .sqrt a 0
  else if isInf a then a
  else
    let n := funits a * 2 ^ 149
    let r := isqrtFrom n 214 0
    packSign false (roundUnits (2 * r + if r * r = n then 0 else 1) 2)

/-- A key that orders the patterns that are no NaN as their values: both zeros are 0. -/
def fkey (w : Word) : Int := if fsign w then -(fmag w : Int) else (fmag w : Int)

/-- `a < b` (R12): false when either is a NaN. -/
def flt (a b : Word) : Bool := !isNaN a && !isNaN b && decide (fkey a < fkey b)

/-- `a <= b` (R12): false when either is a NaN. -/
def fle (a b : Word) : Bool := !isNaN a && !isNaN b && decide (fkey a ≤ fkey b)

/-- `a == b` (R12): false when either is a NaN; `-0.0 == 0.0`. -/
def feq (a b : Word) : Bool := !isNaN a && !isNaN b && decide (fkey a = fkey b)

/-- `f32_of_int` (R132): the binary32 nearest an integer, exact below 2^24. -/
def fofInt (i : Int) : Word := packSign (i < 0) (roundUnits (i.natAbs * 2 ^ 149) 1)

end Sys2Proof.Machine
end

