-- ==== Sys2Proof/Syntax.lean ====
section
/-! DEFINITION. The commands of the CDU (30_encoding.md R91, opcode_table.json), and the written form
of a command (R98). -/

namespace Sys2Proof

/-- Which of the two operand sets a per-side command uses (R17, R92). -/
inductive Side where
  | one
  | two
  deriving DecidableEq, Repr

/-- A command: the CDU's only kind of instruction (R17, R91), one constructor for each row of
opcode_table.json. -/
inductive Instr where
  | nop
  | yuv2rgb (side : Side)
  | rgb2lab (side : Side)
  | cvt (side : Side)
  | de
  | pixel
  | pow24
  | lin
  deriving DecidableEq, Repr

/-- The mnemonics of R91. -/
inductive Mnemonic where
  | NOP
  | YUV2RGB
  | RGB2LAB
  | CVT
  | DE
  | PIXEL
  | POW24
  | LIN
  deriving DecidableEq, Repr

/-- A command as it is written (R98): its mnemonic, and a side number for a per-side command. It may
be ill-formed; `Written.wf` checks it. -/
structure Written where
  mnemonic : Mnemonic
  side     : Option Nat
  deriving DecidableEq, Repr

/-- The mnemonic of a command. -/
def Instr.mnemonic : Instr → Mnemonic
  | .nop       => .NOP
  | .yuv2rgb _ => .YUV2RGB
  | .rgb2lab _ => .RGB2LAB
  | .cvt _     => .CVT
  | .de        => .DE
  | .pixel     => .PIXEL
  | .pow24     => .POW24
  | .lin       => .LIN

/-- The side number a side is written with: "1 or 2, never 0" (R98). -/
def Side.number : Side → Nat
  | .one => 1
  | .two => 2

/-- The side of a per-side command. -/
def Instr.side? : Instr → Option Side
  | .nop          => none
  | .yuv2rgb side => some side
  | .rgb2lab side => some side
  | .cvt side     => some side
  | .de           => none
  | .pixel        => none
  | .pow24        => none
  | .lin          => none

/-- The written form of a command (R98). -/
def Instr.written (i : Instr) : Written :=
  { mnemonic := i.mnemonic, side := i.side?.map Side.number }

end Sys2Proof
end

