-- ==== Sys2Proof/WellFormed.lean ====
section
/-! DEFINITION. When a written command and a command word are well formed: R92, R93, R95 and R98. -/

namespace Sys2Proof

/-- Whether a mnemonic takes a side (R92: `YUV2RGB`, `RGB2LAB`, `CVT`). -/
def Mnemonic.perSide : Mnemonic → Bool
  | .NOP     => false
  | .YUV2RGB => true
  | .RGB2LAB => true
  | .CVT     => true
  | .DE      => false
  | .PIXEL   => false
  | .POW24   => false
  | .LIN     => false

/-- R98: a per-side command is written with side 1 or 2, "never 0"; another has no side. -/
def Written.wf (t : Written) : Bool :=
  if t.mnemonic.perSide then t.side == some 1 || t.side == some 2 else t.side.isNone

/-- Every command's written form is checked the same way. -/
def Instr.wf (i : Instr) : Bool := i.written.wf

/-- The fields of the one format `CMD32` (R90). -/
structure Fields where
  op  : BitVec 8
  s   : BitVec 1
  rsv : BitVec 23
  deriving DecidableEq, Repr

/-- The fields of a word: `OP = w[7:0]`, `S = w[8]`, `RSV = w[31:9]` (R90). -/
def Fields.ofWord (w : Word) : Fields :=
  { op := w.extractLsb' 0 8, s := w.extractLsb' 8 1, rsv := w.extractLsb' 9 23 }

/-- R93: "`RSV = w[31:9]` must be 0". -/
def Fields.rsvOk (f : Fields) : Bool := f.rsv == 0

/-- R97: `OP` 0x08 to 0xFF are reserved. -/
def Fields.opOk (f : Fields) : Bool := f.op.toNat < 8

/-- R92: `S` must be 0 unless `OP` is that of a per-side command (0x01, 0x02, 0x03). -/
def Fields.sideOk (f : Fields) : Bool :=
  f.s == 0 || f.op == 1 || f.op == 2 || f.op == 3

/-- A legal word's fields (R95). -/
def Fields.wf (f : Fields) : Bool := f.rsvOk && f.opOk && f.sideOk

end Sys2Proof
end

