-- ==== Sys2Proof/Decode.lean ====
section
/-! DEFINITION. Decoding (30_encoding.md R95), total on all 2^32 words and on any bytes, and the
encoder `enc` of R96 and R98 after it. -/

namespace Sys2Proof

/-- `1 + s` of R95: `S = 0` is side 1, `S = 1` is side 2 (R92). -/
def Side.ofBit (s : Bool) : Side := if s then .two else .one

/-- `decode(w)` of R95; `none` is `Illegal`. -/
def decode (w : Word) : Option Instr :=
  let op := w.extractLsb' 0 8
  let s := w.getLsbD 8
  let rsv := w.extractLsb' 9 23
  if rsv ≠ 0 then none
  else match op.toNat with
    | 0x00 => if s then none else some .nop
    | 0x01 => some (.yuv2rgb (Side.ofBit s))
    | 0x02 => some (.rgb2lab (Side.ofBit s))
    | 0x03 => some (.cvt (Side.ofBit s))
    | 0x04 => if s then none else some .de
    | 0x05 => if s then none else some .pixel
    | 0x06 => if s then none else some .pow24
    | 0x07 => if s then none else some .lin
    | _    => none

/-- The word whose four bytes, the first at the lowest offset, are given (R62: little-endian). -/
def wordOfBytes (b0 b1 b2 b3 : Byte) : Word := b3 ++ b2 ++ b1 ++ b0

/-- Byte `j` of a word: bits `8j+7..8j` (R62). -/
def byteOfWord (w : Word) (j : Nat) : Byte := w.extractLsb' (8 * j) 8

/-- The four bytes of a word, the first at the lowest offset. -/
def bytesOfWord (w : Word) : List Byte :=
  [byteOfWord w 0, byteOfWord w 1, byteOfWord w 2, byteOfWord w 3]

/-- Decoding bytes: every command is exactly one word of four bytes (R90). The rest of the bytes is
returned with the command. -/
def decodeBytes : List Byte → Option (Instr × List Byte)
  | b0 :: b1 :: b2 :: b3 :: rest => (decode (wordOfBytes b0 b1 b2 b3)).map (fun i => (i, rest))
  | _ => none

/-- The `S` bit of a side (R92). -/
def Side.bit : Side → BitVec 1
  | .one => 0
  | .two => 1

/-- A word from its fields (R90); `{a, b}` has `a` in the upper bits. -/
def Fields.word (f : Fields) : Word := f.rsv ++ f.s ++ f.op

/-- The fields of a command (R91, R92, R96). -/
def Instr.fields : Instr → Fields
  | .nop          => { op := 0x00, s := 0, rsv := 0 }
  | .yuv2rgb side => { op := 0x01, s := side.bit, rsv := 0 }
  | .rgb2lab side => { op := 0x02, s := side.bit, rsv := 0 }
  | .cvt side     => { op := 0x03, s := side.bit, rsv := 0 }
  | .de           => { op := 0x04, s := 0, rsv := 0 }
  | .pixel        => { op := 0x05, s := 0, rsv := 0 }
  | .pow24        => { op := 0x06, s := 0, rsv := 0 }
  | .lin          => { op := 0x07, s := 0, rsv := 0 }

/-- `enc(c)` of R98: the word of R96 for command c. -/
def encode (i : Instr) : Word := i.fields.word

/-- The word of a table row: the row's `nbits` bits of `w`, every bit above them 0. -/
def tableWord (nbits w : Nat) : Word := BitVec.ofNat 32 (w % 2 ^ nbits)

/-- What the decoder reads from a table row's bits, laid out as bytes: the model's layout (log 15). -/
def decodeTableWord (nbits w : Nat) : Option Instr :=
  (decodeBytes (bytesOfWord (tableWord nbits w))).map Prod.fst

end Sys2Proof
end

