-- ==== Sys2Proof/Machine/State.lean ====
section
/-! DEFINITION. The state of one CDU instance (10_state.md R20, R21, R41), the host and platform
around it as plain data, the reasons a step can stop, and the state right after reset. -/

namespace Sys2Proof.Machine

/-- A Sample Triple: three unsigned 16-bit registers (R34). -/
structure Yuv where
  y : BitVec 16
  u : BitVec 16
  v : BitVec 16
  deriving DecidableEq, Repr

/-- An RGB Triple, gamma-encoded, as binary32 (R36). -/
structure Rgb where
  r : Word
  g : Word
  b : Word
  deriving DecidableEq, Repr

/-- A CIELAB Point as binary32 (R37). -/
structure Lab where
  l : Word
  a : Word
  b : Word
  deriving DecidableEq, Repr

/-- The weighting parameters `KL`, `KC`, `KH` as binary32 (R33). -/
structure Weights where
  kl : Word
  kc : Word
  kh : Word
  deriving DecidableEq, Repr

/-- The operand and result registers of one side (R21, R35). -/
structure Bank where
  yuv : Yuv
  rgb : Rgb
  lab : Lab
  deriving DecidableEq, Repr

/-- The STATUS bits that are stored (R28). `BUSY` is the state's `busy` (R29); the reserved bits read
as zero (R23) and have no storage. -/
structure Status where
  done    : Bool
  err     : Bool
  ovr     : Bool
  errCode : BitVec 4
  errInfo : BitVec 8
  deriving DecidableEq, Repr

/-- Which of a triple's three registers: Y, U, V, or R, G, B, or L, A, B, in the order of R21. -/
inductive Chan where
  | first
  | second
  | third
  deriving DecidableEq, Repr

/-- The 29 registers of the map of R21. -/
inductive Reg where
  | id
  | ctrl
  | cfg
  | cmd
  | status
  | kl
  | kc
  | kh
  | yuv (side : Side) (c : Chan)
  | rgb (side : Side) (c : Chan)
  | lab (side : Side) (c : Chan)
  | x
  | p
  | de
  deriving DecidableEq, Repr

/-- The errors a command can end in (R222). -/
inductive ErrorCode where
  | opcode
  | bitDepth
  | weight
  | range
  | domain
  deriving DecidableEq, Repr

/-- `Error(code, info)`: a code, and the register the error names (R222). -/
structure CmdError where
  code : ErrorCode
  info : Reg
  deriving DecidableEq, Repr

/-- The width of a bus access (R63 names 8, 16, 32 and 64 bits). -/
inductive Width where
  | w8
  | w16
  | w32
  | w64
  deriving DecidableEq, Repr

/-- One bus access to the window, at a 12-bit byte offset (R60, R63). -/
inductive Access where
  | read (off : BitVec 12) (width : Width)
  | write (off : BitVec 12) (width : Width) (data : Word)
  deriving DecidableEq, Repr

/-- What a host may do next (R99, R100): one access, or a `POLL`, which reads STATUS until a read
returns `BUSY = 0`. -/
inductive HostOp where
  | access (a : Access)
  | poll
  deriving DecidableEq, Repr

/-- Whose move is next: the host's, the unit's (R16), or the platform driving the reset input to a
level (R260). -/
inductive Turn where
  | host
  | unit
  | reset (asserted : Bool)
  deriving DecidableEq, Repr

/-- The machine. The first fields are the registers of R21 and the hidden command state of R41;
`inReset` is the level of the reset input (R260). The last four are the model's own: what the host will
do next, whose turn it is next, the words the host's reads returned (newest first, R273), and the number
of free values read during reset so far (logs 2, 3, 7). -/
structure State where
  ie        : Bool
  bd        : BitVec 2
  status    : Status
  weights   : Weights
  side1     : Bank
  side2     : Bank
  x         : Word
  p         : Word
  de        : Word
  busy      : Bool
  pending   : Word
  inReset   : Bool
  host      : List HostOp
  turns     : List Turn
  reads     : List Word
  freeReads : Nat
  deriving DecidableEq, Repr

/-- Why a step stops. -/
inductive Fault where
  /-- Raised by a host access that is misaligned or not 32 bits wide: the CDU answers it with a bus error
  and changes no state (R63); "a model records it as a fault of the host program" (R247). Safe: nothing is
  claimed of what the host does next (log 4). -/
  | busError (a : Access)
  deriving DecidableEq, Repr

/-- Why the model has no meaning for a step. -/
inductive Refusal where
  /-- Raised for an instruction that has no meaning yet, by mnemonic. Safe. Every instruction has its
  meaning, so nothing raises it. -/
  | notModelled (mnemonic : String)
  deriving DecidableEq, Repr

/-- A bank whose registers are all 0 (R261). -/
def Bank.zero : Bank :=
  { yuv := { y := 0, u := 0, v := 0 }, rgb := { r := 0, g := 0, b := 0 },
    lab := { l := 0, a := 0, b := 0 } }

/-- The state right after reset (R260, R261). `pending` is "any value" there; 0 is the model's choice
(log 1). The model's own fields are empty (logs 2, 3, 7). -/
def State.reset : State :=
  { ie := false
    bd := 0
    status := { done := false, err := false, ovr := false, errCode := 0, errInfo := 0 }
    weights := { kl := 0x3F266666, kc := 0x3F800000, kh := 0x40800000 }
    side1 := Bank.zero
    side2 := Bank.zero
    x := 0
    p := 0
    de := 0
    busy := false
    pending := 0
    inReset := false
    host := []
    turns := []
    reads := []
    freeReads := 0 }

end Sys2Proof.Machine
end

