-- ==== Sys2Proof/Machine/Flags.lean ====
section
/-! DEFINITION. STATUS: its word, its write-1-to-clear bits, the error latch (10_state.md R28 to R32,
60_exceptions.md R222, R225) and the interrupt level (R42). The CDU has no other flag (R43). -/

namespace Sys2Proof.Machine

/-- The `ERRCODE` value of an error (R222). -/
def ErrorCode.code : ErrorCode → BitVec 4
  | .opcode   => 1
  | .bitDepth => 2
  | .weight   => 3
  | .range    => 4
  | .domain   => 5

/-- A Boolean as a bit. -/
def bit (b : Bool) : BitVec 1 := BitVec.ofBool b

/-- The STATUS word (R28): reserved bits read as 0, bit 0 is `busy` (R29). -/
def State.statusWord (s : State) : Word :=
  0#8 ++ s.status.errInfo ++ 0#4 ++ s.status.errCode ++ 0#4
    ++ bit s.status.ovr ++ bit s.status.err ++ bit s.status.done ++ bit s.busy

/-- What a host write of `w` to STATUS does (R65): bit 1 clears DONE, bit 2 clears the error latch,
bit 3 clears OVR. -/
def Status.clear (f : Status) (w : Word) : Status :=
  { done    := f.done && !w.getLsbD 1
    err     := f.err && !w.getLsbD 2
    ovr     := f.ovr && !w.getLsbD 3
    errCode := if w.getLsbD 2 then 0 else f.errCode
    errInfo := if w.getLsbD 2 then 0 else f.errInfo }

/-- `latch(code, info)` (R225): the first error since ERR was cleared is kept. -/
def Status.latch (f : Status) (code : BitVec 4) (info : BitVec 8) : Status :=
  if f.err then f else { f with err := true, errCode := code, errInfo := info }

/-- The interrupt output: `irq = CTRL.IE and (STATUS.DONE or STATUS.ERR)` (R42). -/
def State.irq (s : State) : Bool := s.ie && (s.status.done || s.status.err)

end Sys2Proof.Machine
end

