-- ==== Sys2Proof/Machine/Ops.lean ====
section
/-! DEFINITION. The operations shared by all commands: the register map, the host's accesses to the
window (20_memory.md R62 to R67), writing results, and the one way a command completes, without and with
an error (60_exceptions.md R221, R224, R225). -/

namespace Sys2Proof.Machine

/-! ### The register map (R21) -/

/-- A side's offset in the map, in words: side 2 stands 4 words after side 1 (R21). -/
def sideIndex : Side → Nat
  | .one => 0
  | .two => 4

/-- A register's place in its triple (R21). -/
def Chan.index : Chan → Nat
  | .first  => 0
  | .second => 1
  | .third  => 2

/-- The word index of a register, `offset >> 2` (R21). -/
def Reg.index : Reg → Nat
  | .id         => 0
  | .ctrl       => 1
  | .cfg        => 2
  | .cmd        => 3
  | .status     => 4
  | .kl         => 5
  | .kc         => 6
  | .kh         => 7
  | .yuv side c => 8 + sideIndex side + c.index
  | .rgb side c => 16 + sideIndex side + c.index
  | .lab side c => 24 + sideIndex side + c.index
  | .x          => 32
  | .p          => 33
  | .de         => 34

/-- The byte offset of a register (R21). -/
def Reg.offset (r : Reg) : BitVec 12 := BitVec.ofNat 12 (4 * r.index)

/-- The register at a word index; `none` at a reserved one (R22). -/
def Reg.ofIndex (i : Nat) : Option Reg :=
  match i with
  | 0  => some .id
  | 1  => some .ctrl
  | 2  => some .cfg
  | 3  => some .cmd
  | 4  => some .status
  | 5  => some .kl
  | 6  => some .kc
  | 7  => some .kh
  | 8  => some (.yuv .one .first)
  | 9  => some (.yuv .one .second)
  | 10 => some (.yuv .one .third)
  | 12 => some (.yuv .two .first)
  | 13 => some (.yuv .two .second)
  | 14 => some (.yuv .two .third)
  | 16 => some (.rgb .one .first)
  | 17 => some (.rgb .one .second)
  | 18 => some (.rgb .one .third)
  | 20 => some (.rgb .two .first)
  | 21 => some (.rgb .two .second)
  | 22 => some (.rgb .two .third)
  | 24 => some (.lab .one .first)
  | 25 => some (.lab .one .second)
  | 26 => some (.lab .one .third)
  | 28 => some (.lab .two .first)
  | 29 => some (.lab .two .second)
  | 30 => some (.lab .two .third)
  | 32 => some .x
  | 33 => some .p
  | 34 => some .de
  | _  => none

/-- A register of a Sample Triple. -/
def Yuv.get (t : Yuv) : Chan → BitVec 16
  | .first  => t.y
  | .second => t.u
  | .third  => t.v

/-- A Sample Triple with one register written. -/
def Yuv.set (t : Yuv) (c : Chan) (w : BitVec 16) : Yuv :=
  match c with
  | .first  => { t with y := w }
  | .second => { t with u := w }
  | .third  => { t with v := w }

/-- A register of an RGB Triple. -/
def Rgb.get (t : Rgb) : Chan → Word
  | .first  => t.r
  | .second => t.g
  | .third  => t.b

/-- An RGB Triple with one register written. -/
def Rgb.set (t : Rgb) (c : Chan) (w : Word) : Rgb :=
  match c with
  | .first  => { t with r := w }
  | .second => { t with g := w }
  | .third  => { t with b := w }

/-- A register of a CIELAB Point. -/
def Lab.get (t : Lab) : Chan → Word
  | .first  => t.l
  | .second => t.a
  | .third  => t.b

/-- A CIELAB Point with one register written. -/
def Lab.set (t : Lab) (c : Chan) (w : Word) : Lab :=
  match c with
  | .first  => { t with l := w }
  | .second => { t with a := w }
  | .third  => { t with b := w }

/-- The registers of a side (R35). -/
def State.bank (s : State) : Side → Bank
  | .one => s.side1
  | .two => s.side2

/-- The registers of a side replaced. -/
def State.setBank (s : State) (side : Side) (b : Bank) : State :=
  match side with
  | .one => { s with side1 := b }
  | .two => { s with side2 := b }

/-! ### Results (R94): what a command writes when it succeeds -/

/-- `RGBs_R`, `RGBs_G`, `RGBs_B` written. -/
def State.setRgb (s : State) (side : Side) (t : Rgb) : State :=
  s.setBank side { s.bank side with rgb := t }

/-- `LABs_L`, `LABs_A`, `LABs_B` written. -/
def State.setLab (s : State) (side : Side) (t : Lab) : State :=
  s.setBank side { s.bank side with lab := t }

/-- `P` written. -/
def State.setP (s : State) (w : Word) : State := { s with p := w }

/-- `DE` written. -/
def State.setDe (s : State) (w : Word) : State := { s with de := w }

/-! ### Reading the window -/

/-- `ID`, a constant (R24). -/
def idWord : Word := 0xDE200007

/-- What a read of a register returns (R64): reserved bits read as 0, `CMD` reads as 0. -/
def State.readReg (s : State) : Reg → Word
  | .id         => idWord
  | .ctrl       => (bit s.ie).setWidth 32
  | .cfg        => s.bd.setWidth 32
  | .cmd        => 0
  | .status     => s.statusWord
  | .kl         => s.weights.kl
  | .kc         => s.weights.kc
  | .kh         => s.weights.kh
  | .yuv side c => ((s.bank side).yuv.get c).setWidth 32
  | .rgb side c => (s.bank side).rgb.get c
  | .lab side c => (s.bank side).lab.get c
  | .x          => s.x
  | .p          => s.p
  | .de         => s.de

/-- The word at a word index of the window: a reserved one reads as 0 (R22, R64). -/
def State.wordAt (s : State) (i : Nat) : Word :=
  match Reg.ofIndex i with
  | some r => s.readReg r
  | none   => 0

/-- One byte of the window: the byte at offset `4i + j` is bits `8j+7..8j` of the register at `4i`
(R62). -/
def State.byteAt (s : State) (a : Nat) : Byte := byteOfWord (s.wordAt (a / 4)) (a % 4)

/-! ### Writing the window -/

/-- `accept_command(w)` (R66): no decoding and no checking; a command written while busy is dropped. -/
def State.acceptCommand (s : State) (w : Word) : State :=
  if s.busy then { s with status := { s.status with ovr := true } }
  else { s with busy := true, pending := w }

/-- The writable bits of `CFG`, a weight or an operand register replaced (R65). A register of another
kind is not written this way. -/
def State.storeReg (s : State) (r : Reg) (w : Word) : State :=
  match r with
  | .cfg        => { s with bd := w.setWidth 2 }
  | .kl         => { s with weights := { s.weights with kl := w } }
  | .kc         => { s with weights := { s.weights with kc := w } }
  | .kh         => { s with weights := { s.weights with kh := w } }
  | .yuv side c =>
      s.setBank side { s.bank side with yuv := (s.bank side).yuv.set c (w.setWidth 16) }
  | .rgb side c => s.setBank side { s.bank side with rgb := (s.bank side).rgb.set c w }
  | .lab side c => s.setBank side { s.bank side with lab := (s.bank side).lab.set c w }
  | .x          => { s with x := w }
  | .id         => s
  | .ctrl       => s
  | .cmd        => s
  | .status     => s
  | .p          => s
  | .de         => s

/-- A write to `CFG`, a weight or an operand register: dropped with OVR while busy (R65, R67). -/
def State.writeOperand (s : State) (r : Reg) (w : Word) : State :=
  if s.busy then { s with status := { s.status with ovr := true } } else s.storeReg r w

/-- A write to a register (R65): read-only registers ignore it (R23). A write to STATUS is also how a
handler ends an interrupt, there being no return instruction (R233). -/
def State.writeReg (s : State) (r : Reg) (w : Word) : State :=
  match r with
  | .id         => s
  | .ctrl       => { s with ie := w.getLsbD 0 }
  | .cfg        => s.writeOperand .cfg w
  | .cmd        => s.acceptCommand w
  | .status     => { s with status := s.status.clear w }
  | .kl         => s.writeOperand .kl w
  | .kc         => s.writeOperand .kc w
  | .kh         => s.writeOperand .kh w
  | .yuv side c => s.writeOperand (.yuv side c) w
  | .rgb side c => s.writeOperand (.rgb side c) w
  | .lab side c => s.writeOperand (.lab side c) w
  | .x          => s.writeOperand .x w
  | .p          => s
  | .de         => s

/-- A write at a word index of the window: a reserved one has no effect (R22). -/
def State.writeWord (s : State) (i : Nat) (w : Word) : State :=
  match Reg.ofIndex i with
  | some r => s.writeReg r w
  | none   => s

/-! ### Bus accesses -/

/-- R63: a 32-bit access at an offset that is a multiple of 4. -/
def Access.accepted : Access → Bool
  | .read off width    => width == .w32 && off.toNat % 4 == 0
  | .write off width _ => width == .w32 && off.toNat % 4 == 0

/-- A word handed to the host: the newest of its reads (R273). -/
def State.returned (s : State) (w : Word) : State := { s with reads := w :: s.reads }

/-- The word a read of the window hands to the host now, and the state after: the word of R64, or
during reset an unspecified word, a fresh free value each time (R260, log 7). -/
def State.busRead (s : State) (i : Nat) : Word × State :=
  if s.inReset then
    (Config.readInReset s.freeReads, { s with freeReads := s.freeReads + 1 })
  else (s.wordAt i, s)

/-- One bus access (R63 to R65). A refused access is a bus error (R63, R247, log 4). During reset a
write has no effect (R260). -/
def State.busAccess (s : State) (a : Access) : Host.Outcome State Fault Refusal :=
  if a.accepted then
    match a with
    | .read off _    => .next ((s.busRead (off.toNat / 4)).2.returned (s.busRead (off.toNat / 4)).1)
    | .write off _ w => .next (if s.inReset then s else s.writeWord (off.toNat / 4) w)
  else .fault (.busError a)

/-- The CDU decodes only `off = address - CDU_BASE` (R60); an address outside the window is not the
CDU's (93_implementation_defined.md section 1). -/
def windowOffset (base addr : Nat) : Option (BitVec 12) :=
  if base ≤ addr ∧ addr < base + 4096 then some (BitVec.ofNat 12 (addr - base)) else none

/-- The access a 32-bit bus read at a platform address makes to this CDU, if any (R60). -/
def readAtAddress (addr : Nat) : Option Access :=
  (windowOffset Config.cduBase addr).map (fun off => .read off .w32)

/-- The access a 32-bit bus write at a platform address makes to this CDU, if any (R60). -/
def writeAtAddress (addr : Nat) (w : Word) : Option Access :=
  (windowOffset Config.cduBase addr).map (fun off => .write off .w32 w)

/-! ### The host notation (30_encoding.md R99, R100) -/

/-- `WR <reg>, <value>`. -/
def HostOp.wr (r : Reg) (w : Word) : HostOp := .access (.write r.offset .w32 w)

/-- `RD <reg>`. -/
def HostOp.rd (r : Reg) : HostOp := .access (.read r.offset .w32)

/-- `CLR`: `WR STATUS, 0x0000000E`. -/
def HostOp.clr : HostOp := .wr .status 0x0000000E

/-- `RUN <command>`: `WR CMD, enc(<command>)` then `POLL`. -/
def HostOp.run (i : Instr) : List HostOp := [.wr .cmd (encode i), .poll]

/-- `CHECK`: the command succeeded when `st[2] == 0` and `st[1] == 1`. -/
def checkStatus (st : Word) : Bool := !st.getLsbD 2 && st.getLsbD 1

/-! ### Completing a command -/

/-- A command ends without error (R221): DONE is set, the unit is idle. -/
def State.finish (s : State) : State :=
  { s with status := { s.status with done := true }, busy := false }

/-- A command ends with an error, the CDU's one way of taking an exception (R221, R224, R225): the
latch takes the code and the word index of the register it names unless it holds an earlier error, the unit
is idle, and nothing else changes. -/
def State.fail (s : State) (e : CmdError) : State :=
  { s with status := s.status.latch e.code.code (BitVec.ofNat 8 e.info.index), busy := false }

/-- One check of a command: whether it passes, and the error it raises when it does not. -/
structure Check where
  ok    : Bool
  error : CmdError

/-- The first check that fails (R223): a command reports exactly one error. -/
def firstFailed : List Check → Option CmdError
  | []      => none
  | c :: cs => if c.ok then firstFailed cs else some c.error

/-- A command with its checks in order and its state with the results written (R221): all checks come
before any result, and a failed one writes none (R223, R224). -/
def State.settle (s : State) (checks : List Check) (results : State) :
    Host.Outcome State Fault Refusal :=
  match firstFailed checks with
  | some e => .next (s.fail e)
  | none   => .next results.finish

/-! ### Reset -/

/-- The platform drives the reset input (R260): asserting it takes every register to its reset value
and abandons a command in flight; releasing it changes nothing else. The host and the turns to come are not
the CDU's and stay. -/
def State.driveReset (s : State) (asserted : Bool) : State :=
  if asserted then
    { State.reset with
      inReset := true, host := s.host, turns := s.turns, reads := s.reads, freeReads := s.freeReads }
  else { s with inReset := false }

end Sys2Proof.Machine
end

