-- ==== Sys2Proof/Machine/Tables.lean ====
section
/-! DEFINITION. The constants and tables fixed in the design: 10_state.md R40, 41_fast_power.md R111,
42_color_convert.md R131 and R138, and this CDU's values of the named parameters. -/

namespace Sys2Proof.Machine

/-! The constants of R40 that are not exact in binary32. -/

/-- 10/255. -/
def cGammaThr : Word := 0x3D20A0A1
/-- 0.055. -/
def cGammaA : Word := 0x3D6147AE
/-- 1.055. -/
def cGammaD : Word := 0x3F870A3D
/-- 12.92 (D15, from general knowledge: log 12). -/
def cGammaLin : Word := 0x414EB852
/-- 216/24389. -/
def cEps : Word := 0x3C111AA7
/-- 24389/27. -/
def cKappa : Word := 0x4461D2F7
/-- 0.95047. -/
def cXn : Word := 0x3F735200
/-- 1.08883. -/
def cZn : Word := 0x3F8B5EC8
/-- 2.4. -/
def cP1 : Word := 0x4019999A
/-- 1.68. -/
def cP2 : Word := 0x3FD70A3D
/-- 0.224. -/
def cP3 : Word := 0x3E656042
/-- 25^7, rounded. -/
def cPow25 : Word := 0x4FB5E621
/-- π/180. -/
def cDeg2Rad : Word := 0x3C8EFA35
/-- 180/π. -/
def cRad2Deg : Word := 0x42652EE1
/-- 0.17. -/
def c017 : Word := 0x3E2E147B
/-- 0.24. -/
def c024 : Word := 0x3E75C28F
/-- 0.32. -/
def c032 : Word := 0x3EA3D70A
/-- 0.20. -/
def c020 : Word := 0x3E4CCCCD
/-- 0.015. -/
def c0015 : Word := 0x3C75C28F
/-- 0.045. -/
def c0045 : Word := 0x3D3851EC

/-! The constants exact in binary32 (R40), and the limits of R9. -/

/-- +0. -/
def cZero : Word := 0x00000000
/-- 0.5. -/
def cHalf : Word := 0x3F000000
/-- 1. -/
def cOne : Word := 0x3F800000
/-- 2. -/
def cTwo : Word := 0x40000000
/-- 3. -/
def cThree : Word := 0x40400000
/-- 4. -/
def cFour : Word := 0x40800000
/-- 6. -/
def cSix : Word := 0x40C00000
/-- 16. -/
def cSixteen : Word := 0x41800000
/-- 20. -/
def cTwenty : Word := 0x41A00000
/-- 25. -/
def c25 : Word := 0x41C80000
/-- 30. -/
def c30 : Word := 0x41F00000
/-- 50. -/
def c50 : Word := 0x42480000
/-- 60. -/
def c60 : Word := 0x42700000
/-- 63. -/
def c63 : Word := 0x427C0000
/-- 116. -/
def c116 : Word := 0x42E80000
/-- 180. -/
def c180 : Word := 0x43340000
/-- 200. -/
def c200 : Word := 0x43480000
/-- 275. -/
def c275 : Word := 0x43898000
/-- 360. -/
def c360 : Word := 0x43B40000
/-- 500. -/
def c500 : Word := 0x43FA0000
/-- `K_MIN` = 2^-8 (R9). -/
def kMin : Word := 0x3B800000
/-- `K_MAX` = 2^8 (R9). -/
def kMax : Word := 0x43800000
/-- `RGB_LIMIT` = 16 (R9). -/
def rgbLimit : Word := 0x41800000
/-- `LAB_LIMIT` = 2^14, exclusive (R9). -/
def labLimit : Word := 0x46800000

/-- `INV_T[k]` = 1/m_t (R111). -/
def invT (k : BitVec 3) : Word :=
  match k.toNat with
  | 0 => 0x3F800000
  | 1 => 0x3F638E39
  | 2 => 0x3F4CCCCD
  | 3 => 0x3F3A2E8C
  | 4 => 0x3F2AAAAB
  | 5 => 0x3F1D89D9
  | 6 => 0x3F124925
  | _ => 0x3F088889

/-- `MP_T[k]` = m_t^2.4 (R111). -/
def mpT (k : BitVec 3) : Word :=
  match k.toNat with
  | 0 => 0x3F800000
  | 1 => 0x3FA9D0A3
  | 2 => 0x3FDAAC23
  | 3 => 0x40097019
  | 4 => 0x40295AFA
  | 5 => 0x404D3955
  | 6 => 0x40752C18
  | _ => 0x4090A95A

/-- `EP_T[e]` = 2^(2.4·e) for e in −4..3, indexed by `e + 4` (R111). -/
def epT (i : BitVec 3) : Word :=
  match i.toNat with
  | 0 => 0x3AA8E5A3
  | 1 => 0x3BDEDC67
  | 2 => 0x3D13088C
  | 3 => 0x3E420300
  | 4 => 0x3F800000
  | 5 => 0x40A8E5A3
  | 6 => 0x41DEDC67
  | _ => 0x4313088C

/-- `M_YUV` of this CDU: rows R', G', B', columns Y, U, V (R131; from general knowledge, log 12). -/
def mYuvCdu : Matrix3 :=
  { r1 := { c1 := 0x3F800000, c2 := 0x00000000, c3 := 0x3FC9930C }
    r2 := { c1 := 0x3F800000, c2 := 0xBE3FD1DD, c3 := 0xBEEFADF3 }
    r3 := { c1 := 0x3F800000, c2 := 0x3FED844D, c3 := 0x00000000 } }

/-- `M_XYZ` of this CDU: rows X, Y, Z, columns linear R, G, B (R138; from general knowledge,
log 12). -/
def mXyzCdu : Matrix3 :=
  { r1 := { c1 := 0x3ED32D7C, c2 := 0x3EB71437, c3 := 0x3E38C49C }
    r2 := { c1 := 0x3E59C6ED, c2 := 0x3F371437, c3 := 0x3D93D07D }
    r3 := { c1 := 0x3C9E6221, c2 := 0x3DF41AEF, c3 := 0x3F734721 } }

/-- `RT_SIGN` = −1 (R9, R173, 90_conflicts.md C2). -/
def rtSignCdu : Word := 0xBF800000

/-- This CDU with its matrices and sign, for a given `NUM`. -/
def cduWith (num : Numerics) : Params :=
  { mYuv := mYuvCdu, mXyz := mXyzCdu, rtSign := rtSignCdu, num := num }

/-- This CDU's parameters; its `NUM` is open (R13, log 5). -/
def cdu : Params := cduWith Config.num

end Sys2Proof.Machine
end

