-- ==== Sys2Proof/Machine/Operands.lean ====
section
/-! DEFINITION. The operands of the commands and their checks: every operand is a fixed register
selected by `OP` and `S` (30_encoding.md R94), checked at completion in the order of 60_exceptions.md
R223. -/

namespace Sys2Proof.Machine

/-- `bitdepth(CFG)` (R26): 8, 10 or 12; `none` for the reserved `BD = 0b11`. -/
def bitDepth (bd : BitVec 2) : Option Nat :=
  match bd.toNat with
  | 0 => some 8
  | 1 => some 10
  | 2 => some 12
  | _ => none

/-- The error of a reserved bit depth: `Error(E_BITDEPTH, 2)` (R146). -/
def bitDepthError : CmdError := { code := .bitDepth, info := .cfg }

/-- `finite(k) and K_MIN <= k <= K_MAX` (R33). -/
def weightOk (k : Word) : Bool := isFinite k && fle kMin k && fle k kMax

/-- `sample(s, c) <= 2^bitdepth - 1` (R34). -/
def sampleOk (depth : Nat) (sample : BitVec 16) : Bool := sample.toNat ≤ 2 ^ depth - 1

/-- `finite(c) and abs(c) <= RGB_LIMIT` (R36). -/
def rgbOk (c : Word) : Bool := isFinite c && fle (fabs c) rgbLimit

/-- `finite(v) and abs(v) < LAB_LIMIT` (R37). -/
def labOk (v : Word) : Bool := isFinite v && flt (fabs v) labLimit

/-- The `POW24` domain (R115): `x[31] == 0 and 123 <= x[30:23] <= 130`. -/
def powOk (x : Word) : Bool := !fsign x && decide (123 ≤ fexp x) && decide (fexp x ≤ 130)

/-- The checks of `KL`, `KC`, `KH`, in this order (R188). -/
def weightChecks (k : Weights) : List Check :=
  [ { ok := weightOk k.kl, error := { code := .weight, info := .kl } },
    { ok := weightOk k.kc, error := { code := .weight, info := .kc } },
    { ok := weightOk k.kh, error := { code := .weight, info := .kh } } ]

/-- The checks of a Sample Triple, in the order Y, U, V (R146). -/
def sampleChecks (depth : Nat) (side : Side) (t : Yuv) : List Check :=
  [ { ok := sampleOk depth t.y, error := { code := .range, info := .yuv side .first } },
    { ok := sampleOk depth t.u, error := { code := .range, info := .yuv side .second } },
    { ok := sampleOk depth t.v, error := { code := .range, info := .yuv side .third } } ]

/-- The checks of an RGB Triple, in the order R, G, B (R148). -/
def rgbChecks (side : Side) (t : Rgb) : List Check :=
  [ { ok := rgbOk t.r, error := { code := .domain, info := .rgb side .first } },
    { ok := rgbOk t.g, error := { code := .domain, info := .rgb side .second } },
    { ok := rgbOk t.b, error := { code := .domain, info := .rgb side .third } } ]

/-- The checks of a CIELAB Point, in the order L, A, B (R188). -/
def labChecks (side : Side) (t : Lab) : List Check :=
  [ { ok := labOk t.l, error := { code := .domain, info := .lab side .first } },
    { ok := labOk t.a, error := { code := .domain, info := .lab side .second } },
    { ok := labOk t.b, error := { code := .domain, info := .lab side .third } } ]

/-- The check of `X` by a condition of the command's own: `Error(E_DOMAIN, 32)` (R116, R152). -/
def xCheck (ok : Bool) : List Check :=
  [ { ok := ok, error := { code := .domain, info := .x } } ]

end Sys2Proof.Machine
end

