-- ==== Sys2Proof/Machine/Power.lean ====
section
/-! DEFINITION. The fast power approximation and its command `POW24` (41_fast_power.md). -/

namespace Sys2Proof.Machine

/-- `k := u[22:20]`, the mantissa bucket (R112). -/
def powBucket (x : Word) : BitVec 3 := x.extractLsb' 20 3

/-- `e + 4` for `e := u[30:23] - 127` in −4..3 (R112): the index of the exponent table. -/
def powExpIndex (x : Word) : BitVec 3 := BitVec.ofNat 3 (fexp x - 123)

/-- `m := f32({0b0, 0x7F, u[22:0]})`, the significand in [1, 2) (R112). -/
def powMantissa (x : Word) : Word := 0#1 ++ 0x7F#8 ++ x.extractLsb' 0 23

/-- The residual `m * INV_T[k] - 1.0` (R113). -/
def powResidual (x : Word) : Word := fsub (fmul (powMantissa x) (invT (powBucket x))) cOne

/-- The correction `1.0 + r * (C_P1 + r * (C_P2 + r * C_P3))` (R113). -/
def powCorrection (r : Word) : Word :=
  fadd cOne (fmul r (fadd cP1 (fmul r (fadd cP2 (fmul r cP3)))))

/-- `pow24_fn` (R113), "defined for" the domain of R115 "and nowhere else": free outside it
(log 11). -/
def pow24Fn (x : Word) : Word :=
  if powOk x then
    fmul (fmul (epT (powExpIndex x)) (mpT (powBucket x))) (powCorrection (powResidual x))
  else Config.powOutside x

/-- `POW24` (R116). -/
def execPow24 (s : State) : Host.Outcome State Fault Refusal :=
  s.settle (xCheck (powOk s.x)) (s.setP (pow24Fn s.x))

end Sys2Proof.Machine
end

