-- ==== Sys2Proof/Machine/Convert.lean ====
section
/-! DEFINITION. The colour space converter and its commands `YUV2RGB`, `RGB2LAB`, `CVT` and `LIN`
(42_color_convert.md). The functions take the named parameters as an argument. -/

namespace Sys2Proof.Machine

/-- `(M[X] * a + M[Y] * b) + M[Z] * c`, left to right (R134, R139). -/
def rowTimes (m : Row) (a b c : Word) : Word :=
  fadd (fadd (fmul m.c1 a) (fmul m.c2 b)) (fmul m.c3 c)

/-- One normalised component (R132): the integer difference, converted exactly, divided by the
excursion. `scale` is `1 << (bitdepth - 8)`. -/
def normalise (sample : BitVec 16) (offset excursion scale : Nat) : Word :=
  fdiv (fofInt ((sample.toNat : Int) - (offset * scale : Nat)))
    (fofInt ((excursion * scale : Nat) : Int))

/-- `yuv2rgb_fn` (R132, R134) at a bit depth: not clamped. -/
def yuv2rgbFn (c : Params) (depth : Nat) (t : Yuv) : Rgb :=
  let sc := 2 ^ (depth - 8)
  let yn := normalise t.y 16 219 sc
  let un := normalise t.u 128 224 sc
  let vn := normalise t.v 128 224 sc
  { r := rowTimes c.mYuv.r1 yn un vn
    g := rowTimes c.mYuv.r2 yn un vn
    b := rowTimes c.mYuv.r3 yn un vn }

/-- `lin_fn`, the gamma decode of one channel value (R137). -/
def linFn (v : Word) : Word :=
  if flt cGammaThr v then pow24Fn (fdiv (fadd v cGammaA) cGammaD) else fdiv v cGammaLin

/-- `f_lab`, the CIE nonlinearity (R140). -/
def fLab (c : Params) (t : Word) : Word :=
  if flt cEps t then c.num.cbrt t else fdiv (fadd (fmul cKappa t) cSixteen) c116

/-- The CIELAB coordinates from the normalised X, Y, Z (R142). -/
def labOfXyz (c : Params) (xr yr zr : Word) : Lab :=
  let fx := fLab c xr
  let fy := fLab c yr
  let fz := fLab c zr
  { l := fsub (fmul c116 fy) cSixteen
    a := fmul c500 (fsub fx fy)
    b := fmul c200 (fsub fy fz) }

/-- `rgb2lab_fn` (R139, R143): gamma decode, matrix, white normalisation (Y unnormalised), CIELAB. -/
def rgb2labFn (c : Params) (t : Rgb) : Lab :=
  let rl := linFn t.r
  let gl := linFn t.g
  let bl := linFn t.b
  labOfXyz c (fdiv (rowTimes c.mXyz.r1 rl gl bl) cXn) (rowTimes c.mXyz.r2 rl gl bl)
    (fdiv (rowTimes c.mXyz.r3 rl gl bl) cZn)

/-- `YUV2RGB s` (R146). -/
def execYuv2rgb (side : Side) (s : State) : Host.Outcome State Fault Refusal :=
  match bitDepth s.bd with
  | none       => .next (s.fail bitDepthError)
  | some depth =>
      s.settle (sampleChecks depth side (s.bank side).yuv)
        (s.setRgb side (yuv2rgbFn cdu depth (s.bank side).yuv))

/-- `RGB2LAB s` (R148). -/
def execRgb2lab (side : Side) (s : State) : Host.Outcome State Fault Refusal :=
  s.settle (rgbChecks side (s.bank side).rgb) (s.setLab side (rgb2labFn cdu (s.bank side).rgb))

/-- `CVT s` (R150): the checks and computation of `YUV2RGB s`, the `RGB_LIMIT` check on the computed
RGB (log 14), then step 2; the six results are written together. -/
def execCvt (side : Side) (s : State) : Host.Outcome State Fault Refusal :=
  match bitDepth s.bd with
  | none       => .next (s.fail bitDepthError)
  | some depth =>
      let rgb := yuv2rgbFn cdu depth (s.bank side).yuv
      s.settle (sampleChecks depth side (s.bank side).yuv ++ rgbChecks side rgb)
        ((s.setRgb side rgb).setLab side (rgb2labFn cdu rgb))

/-- `LIN` (R152). -/
def execLin (s : State) : Host.Outcome State Fault Refusal :=
  s.settle (xCheck (rgbOk s.x)) (s.setP (linFn s.x))

end Sys2Proof.Machine
end

