-- ==== Sys2Proof/Machine/Distance.lean ====
section
/-! DEFINITION. The CIEDE2000 distance and its command `DE` (43_ciede2000.md R160 to R189): one
definition for each step, in the spec's order. -/

namespace Sys2Proof.Machine

/-- `hyp(p, q) := sqrt(p * p + q * q)` (R162). -/
def hyp (p q : Word) : Word := fsqrt (fadd (fmul p p) (fmul q q))

/-- `(a + b) * 0.5` (R162, R170). -/
def mean (a b : Word) : Word := fmul (fadd a b) cHalf

/-- `pow7(c)`: `c2 := c*c; c3 := c2*c; c6 := c3*c3; c7 := c6*c` (R163). -/
def pow7 (c : Word) : Word :=
  let c3 := fmul (fmul c c) c
  fmul (fmul c3 c3) c

/-- `sqrt(c^7 / (c^7 + 25^7))` (R164, R173). -/
def chromaRatio (c : Word) : Word := fsqrt (fdiv (pow7 c) (fadd (pow7 c) cPow25))

/-- `G` of R164. -/
def gFactor (cbar : Word) : Word := fmul cHalf (fsub cOne (chromaRatio cbar))

/-- `hue(b, ap, cp)` (R166): zero chroma gives hue 0 and does not evaluate ATAN2; the result is folded
into [0, 360). -/
def hue (n : Numerics) (b ap cp : Word) : Word :=
  if feq cp cZero then cZero
  else
    let h := fmul (n.atan2 b ap) cRad2Deg
    let h' := if flt h cZero then fadd h c360 else h
    if fle c360 h' then cZero else h'

/-- `zc` of R168: either chroma is 0, tested for each side. -/
def zeroChroma (c1p c2p : Word) : Bool := feq c1p cZero || feq c2p cZero

/-- `dhp` of R168: the Sharma rule (90_conflicts.md C3). -/
def hueDifference (zc : Bool) (h1p h2p : Word) : Word :=
  if zc then cZero
  else
    let d := fsub h2p h1p
    if flt c180 d then fsub d c360
    else if flt d (fneg c180) then fadd d c360
    else d

/-- `deg2rad(d)` (R15). -/
def deg2rad (d : Word) : Word := fmul d cDeg2Rad

/-- `dHp` of R169. -/
def hueTerm (n : Numerics) (c1p c2p dhp : Word) : Word :=
  fmul (fmul cTwo (fsqrt (fmul c1p c2p))) (n.sin (deg2rad (fmul dhp cHalf)))

/-- `Hbp` of R170. -/
def meanHue (zc : Bool) (h1p h2p : Word) : Word :=
  let hs := fadd h1p h2p
  if zc then hs
  else if fle (fabs (fsub h1p h2p)) c180 then fmul hs cHalf
  else if flt hs c360 then fmul (fadd hs c360) cHalf
  else fmul (fsub hs c360) cHalf

/-- `cosd(x)` of R171. -/
def cosd (n : Numerics) (x : Word) : Word := n.cos (deg2rad x)

/-- `T` of R171, left to right. -/
def tTerm (n : Numerics) (hbp : Word) : Word :=
  fsub
    (fadd
      (fadd (fsub cOne (fmul c017 (cosd n (fsub hbp c30))))
        (fmul c024 (cosd n (fmul cTwo hbp))))
      (fmul c032 (cosd n (fadd (fmul cThree hbp) cSix))))
    (fmul c020 (cosd n (fsub (fmul cFour hbp) c63)))

/-- `SL` of R172. -/
def slTerm (lbp : Word) : Word :=
  let lm := fsub lbp c50
  let lm2 := fmul lm lm
  fadd cOne (fdiv (fmul c0015 lm2) (fsqrt (fadd cTwenty lm2)))

/-- `SC` of R172. -/
def scTerm (cbp : Word) : Word := fadd cOne (fmul c0045 cbp)

/-- `SH` of R172. -/
def shTerm (cbp t : Word) : Word := fadd cOne (fmul (fmul c0015 cbp) t)

/-- `RT` of R173, its sign the parameter `RT_SIGN` (90_conflicts.md C2). -/
def rotation (c : Params) (cbp hbp : Word) : Word :=
  let rc := fmul cTwo (chromaRatio cbp)
  let q := fdiv (fsub hbp c275) c25
  let dth := fmul c60 (c.num.exp (fneg (fmul q q)))
  fmul c.rtSign (fmul rc (c.num.sin (deg2rad dth)))

/-- The radicand of R174 before the guard. -/
def radicand (rt tl tc th : Word) : Word :=
  fadd (fadd (fadd (fmul tl tl) (fmul tc tc)) (fmul th th)) (fmul (fmul rt tc) th)

/-- The result of R174: a radicand below 0 is clamped to +0. -/
def guardedRoot (s : Word) : Word := fsqrt (if flt s cZero then cZero else s)

/-- The values on the way to the distance, named as in R162 to R174 and R189. -/
structure Steps where
  c1p : Word
  c2p : Word
  h1p : Word
  h2p : Word
  dlp : Word
  dcp : Word
  dhp : Word
  dHp : Word
  lbp : Word
  cbp : Word
  hbp : Word
  t   : Word
  sl  : Word
  sc  : Word
  sh  : Word
  rt  : Word
  deriving DecidableEq, Repr

/-- Steps 1 to 10 (R162 to R173). -/
def de2000Steps (c : Params) (p q : Lab) : Steps :=
  let opg := fadd cOne (gFactor (mean (hyp p.a p.b) (hyp q.a q.b)))
  let a1p := fmul p.a opg
  let a2p := fmul q.a opg
  let c1p := hyp a1p p.b
  let c2p := hyp a2p q.b
  let h1p := hue c.num p.b a1p c1p
  let h2p := hue c.num q.b a2p c2p
  let zc := zeroChroma c1p c2p
  let dhp := hueDifference zc h1p h2p
  let lbp := mean p.l q.l
  let cbp := mean c1p c2p
  let hbp := meanHue zc h1p h2p
  let t := tTerm c.num hbp
  { c1p := c1p, c2p := c2p, h1p := h1p, h2p := h2p
    dlp := fsub q.l p.l
    dcp := fsub c2p c1p
    dhp := dhp
    dHp := hueTerm c.num c1p c2p dhp
    lbp := lbp, cbp := cbp, hbp := hbp, t := t
    sl := slTerm lbp
    sc := scTerm cbp
    sh := shTerm cbp t
    rt := rotation c cbp hbp }

/-- The radicand of step 11 from the steps before it (R174). -/
def Steps.radicand (v : Steps) (k : Weights) : Word :=
  Machine.radicand v.rt (fdiv v.dlp (fmul k.kl v.sl)) (fdiv v.dcp (fmul k.kc v.sc))
    (fdiv v.dHp (fmul k.kh v.sh))

/-- `de2000_fn(lab1, lab2, k)` (R176). -/
def de2000Fn (c : Params) (p q : Lab) (k : Weights) : Word :=
  guardedRoot ((de2000Steps c p q).radicand k)

/-- `DE` (R188). -/
def execDe (s : State) : Host.Outcome State Fault Refusal :=
  s.settle
    (weightChecks s.weights ++ labChecks .one s.side1.lab ++ labChecks .two s.side2.lab)
    (s.setDe (de2000Fn cdu s.side1.lab s.side2.lab s.weights))

end Sys2Proof.Machine
end

