-- ==== Sys2Proof/Machine/Control.lean ====
section
/-! DEFINITION. The control and composite commands `NOP` and `PIXEL` (44_control_composite.md). -/

namespace Sys2Proof.Machine

/-- `NOP` (R200): no check, no result. -/
def execNop (s : State) : Host.Outcome State Fault Refusal := s.settle [] s

/-- The 13 results of `PIXEL` written (R202). -/
def State.setPixel (s : State) (rgb1 : Rgb) (rgb2 : Rgb) (lab1 : Lab) (lab2 : Lab) (de : Word) :
    State :=
  ((((s.setRgb .one rgb1).setRgb .two rgb2).setLab .one lab1).setLab .two lab2).setDe de

/-- `PIXEL` (R202): the bit depth, the weights, the samples of side 1 and of side 2, in this order, then
both conversions and the distance; no domain check is repeated. -/
def execPixel (s : State) : Host.Outcome State Fault Refusal :=
  match bitDepth s.bd with
  | none       => .next (s.fail bitDepthError)
  | some depth =>
      let rgb1 := yuv2rgbFn cdu depth s.side1.yuv
      let rgb2 := yuv2rgbFn cdu depth s.side2.yuv
      let lab1 := rgb2labFn cdu rgb1
      let lab2 := rgb2labFn cdu rgb2
      s.settle
        (weightChecks s.weights ++ sampleChecks depth .one s.side1.yuv
          ++ sampleChecks depth .two s.side2.yuv)
        (s.setPixel rgb1 rgb2 lab1 lab2 (de2000Fn cdu lab1 lab2 s.weights))

end Sys2Proof.Machine
end

