-- ==== Sys2Proof/Machine/Dispatch.lean ====
section
/-! DEFINITION. exec: one arm for each command, each one call of its meaning. -/

namespace Sys2Proof.Machine

/-- `run(cmd)` of R221 with its completion: the meaning of a command. -/
def exec (i : Instr) (s : State) : Host.Outcome State Fault Refusal :=
  match i with
  | .nop => Sys2Proof.Machine.execNop s
  | .yuv2rgb side => Sys2Proof.Machine.execYuv2rgb side s
  | .rgb2lab side => Sys2Proof.Machine.execRgb2lab side s
  | .cvt side => Sys2Proof.Machine.execCvt side s
  | .de => Sys2Proof.Machine.execDe s
  | .pixel => Sys2Proof.Machine.execPixel s
  | .pow24 => Sys2Proof.Machine.execPow24 s
  | .lin => Sys2Proof.Machine.execLin s

end Sys2Proof.Machine
end

