-- ==== Sys2Proof/Machine/Agents.lean ====
section
/-! DEFINITION. What each agent does when it moves: the unit's completion (60_exceptions.md R221), the
host's next interaction (30_encoding.md R99, R100), and the platform's reset input (70_reset_and_hazards.md
R260). -/

namespace Sys2Proof.Machine

/-- The error of a word that decodes as Illegal: `Error(E_OPCODE, 3)` (R221). -/
def opcodeError : CmdError := { code := .opcode, info := .cmd }

/-- `complete()` (R221) where it is enabled: the word in flight is decoded now and run. -/
def State.complete (s : State) : Host.Outcome State Fault Refusal :=
  match decode s.pending with
  | some i => exec i s
  | none   => .next (s.fail opcodeError)

/-- The unit's move: its completion is "enabled exactly when `busy = 1`" (R221); idle, it keeps all
state (R246). -/
def State.unitMove (s : State) : Host.Outcome State Fault Refusal :=
  if s.busy then s.complete else .next s

/-- One `POLL` read of STATUS (R100): it ends when the word read has `BUSY = 0`. -/
def State.pollMove (s : State) (rest : List HostOp) : State :=
  let st := (s.busRead Reg.status.index).1
  { (s.busRead Reg.status.index).2.returned st with
    host := if st.getLsbD 0 then .poll :: rest else rest }

/-- The host's move: its next interaction, if it has one. -/
def State.hostMove (s : State) : Host.Outcome State Fault Refusal :=
  match s.host with
  | []                => .next s
  | .access a :: rest => { s with host := rest }.busAccess a
  | .poll :: rest     => .next (s.pollMove rest)

/-- A move of the agent whose turn it is. -/
def State.move (s : State) : Turn → Host.Outcome State Fault Refusal
  | .host    => s.hostMove
  | .unit    => s.unitMove
  | .reset b => .next (s.driveReset b)

/-- Who moves when no turn is prescribed: the unit while a command is in flight, so that it completes
(R16), and otherwise the host (log 2). -/
def State.defaultTurn (s : State) : Turn := if s.busy then .unit else .host

end Sys2Proof.Machine
end

