-- ==== Sys2Proof/Machine/Step.lean ====
section
/-! DEFINITION. One step of the machine: one event of the total order of host accesses and completions
(20_memory.md R73). -/

namespace Sys2Proof.Machine

/-- One step: the agent whose turn is first moves and the turn is used up; with no turn left, the
default agent moves (log 2). -/
def step (s : State) : Host.Outcome State Fault Refusal :=
  match s.turns with
  | []        => s.move s.defaultTurn
  | t :: rest => { s with turns := rest }.move t

/-- `s` with a table row's word as the command in flight and the unit to move next, reset released: the
next step completes exactly that command. With no turn prescribed the unit moves next by itself. It stands
for the accepted `CMD` write of R66 (log 16). -/
def State.withFetchWord (s : State) (nbits w : Nat) : State :=
  { s with
    busy := true
    pending := tableWord nbits w
    inReset := false
    turns := if s.turns.isEmpty then [] else .unit :: s.turns }

end Sys2Proof.Machine
end

