-- ==== Sys2Proof/Machine/NumRef.lean ====
section
/-! DEFINITION. The reference instance `NUM_REF` of the open parameter `NUM` (00_scope.md R13): each
function computed in fixed point with 320 fraction bits and rounded once to the nearest binary32. The
machine's step does not use it: its `NUM` stays open (log 5). That the guard bits suffice is not proved
(log 17). -/

namespace Sys2Proof.Machine.Ref

/-- The fixed-point scale: a natural number `v` stands for `v / 2^320`. -/
def scale : Nat := 2 ^ 320

/-- A magnitude in fixed point; exact, since a binary32 is a multiple of 2^-149. -/
def ofWord (w : Word) : Nat := funits w * 2 ^ 171

/-- The binary32 nearest a fixed-point magnitude, with a sign. -/
def toWord (s : Bool) (v : Nat) : Word := packSign s (roundUnits v (2 ^ 171))

/-- A NaN for an operand R13 says nothing of (an infinity or a NaN, log 17). -/
def undefinedOperand : Word := 0x7FC00000

/-- Euler's series for the arctangent, with `z = t²/(1+t²)`: the sum of `term`, `term * 2/3 * z`,
`… * 4/5 * z`, … . -/
def atanSeries (z : Nat) : Nat → Nat → Nat → Nat → Nat
  | 0, _, _, acc => acc
  | k + 1, n, term, acc =>
      if term = 0 then acc
      else atanSeries z k (n + 1) (term * z * (2 * n + 2) / ((2 * n + 3) * scale)) (acc + term)

/-- The arctangent of `t` in [0, 1]. -/
def atanUnit (t : Nat) : Nat :=
  let d := scale + t * t / scale
  atanSeries (t * t / d) 340 0 (t * scale / d) 0

/-- π. -/
def pi : Nat := 4 * atanUnit scale

/-- The arctangent of `y / x` for magnitudes that are not both zero. -/
def atanQuot (y x : Nat) : Nat :=
  if y ≤ x then atanUnit (y * scale / x) else pi / 2 - atanUnit (x * scale / y)

/-- The terms `term`, `term * r/(n+1)`, … of the exponential series, those of even place added to
`even` and the others to `odd`. -/
def expSeries (r : Nat) : Nat → Nat → Nat → Nat → Nat → Nat × Nat
  | 0, _, _, even, odd => (even, odd)
  | k + 1, n, term, even, odd =>
      if term = 0 then (even, odd)
      else expSeries r k (n + 1) (term * r / ((n + 1) * scale)) (odd + term) even

/-- `cosh r` and `sinh r` for `r` below 1, in an order that does not matter to their sum. -/
def coshSinh (r : Nat) : Nat × Nat :=
  let p := expSeries r 80 0 scale 0 0
  (max p.1 p.2, min p.1 p.2)

/-- The 256th power of a fixed-point value, by squaring. -/
def pow256 : Nat → Nat → Nat
  | 0, v => v
  | k + 1, v => pow256 k (v * v / scale)

/-- `EXP`. -/
def exp (x : Word) : Word :=
  if !isFinite x then undefinedOperand
  else if ofWord x > 200 * scale then (if fsign x then cZero else packSign false infMag)
  else
    let p := coshSinh (ofWord x / 256)
    toWord false (pow256 8 (if fsign x then p.1 - p.2 else p.1 + p.2))

/-- The alternating series `term - term*r²/((n+1)(n+2)) + …`: the terms added and the terms
subtracted. -/
def trigSeries (r2 : Nat) : Nat → Nat → Nat → Nat → Nat → Nat × Nat
  | 0, _, _, plus, minus => (plus, minus)
  | k + 1, n, term, plus, minus =>
      if term = 0 then (plus, minus)
      else
        let rest := trigSeries r2 k (n + 2) (term * r2 / ((n + 1) * (n + 2) * scale)) plus minus
        (rest.2 + term, rest.1)

/-- The sine of `r` in [0, π]. -/
def sinUnit (r : Nat) : Nat :=
  let p := trigSeries (r * r / scale) 120 1 r 0 0
  p.1 - p.2

/-- The sine of a magnitude: whether it is negative, and its magnitude. -/
def sinMag (v : Nat) : Bool × Nat :=
  let r := v % (2 * pi)
  if r ≤ pi then (false, sinUnit r) else (true, sinUnit (r - pi))

/-- `SIN`; a zero keeps its sign. -/
def sin (x : Word) : Word :=
  if !isFinite x then undefinedOperand
  else toWord ((sinMag (ofWord x)).1 != fsign x) (sinMag (ofWord x)).2

/-- `COS`: the sine a quarter turn on. -/
def cos (x : Word) : Word :=
  if !isFinite x then undefinedOperand
  else if fmag x = 0 then cOne
  else toWord (sinMag (ofWord x + pi / 2)).1 (sinMag (ofWord x + pi / 2)).2

/-- `ATAN2(y, x)`: `ATAN2(±0, +0) = ±0` and `ATAN2(±0, −x) = ±π` (R13). DESIGN CHOICE, log 17:
`ATAN2(±0, −0)`, which R13 does not fix and no command evaluates (R166), is `±π`. -/
def atan2 (y x : Word) : Word :=
  if !isFinite y || !isFinite x then undefinedOperand
  else if fmag y = 0 then (if fsign x then toWord (fsign y) pi else y)
  else if fsign x then toWord (fsign y) (pi - atanQuot (ofWord y) (ofWord x))
  else packSign (fsign y) (roundUnits (2 * atanQuot (ofWord y) (ofWord x) - 1) (2 ^ 172))

/-- The integer cube root, one bit at a time from bit `k - 1` down. -/
def icbrtFrom (n : Nat) : Nat → Nat → Nat
  | 0, acc => acc
  | k + 1, acc => icbrtFrom n k (if (acc + 2 ^ k) ^ 3 ≤ n then acc + 2 ^ k else acc)

/-- `CBRT`. DESIGN CHOICE, log 17: the root of a zero, which R13 does not fix and no command evaluates
(R141), is that zero. The root in units is that of `funits x * 2^298`; twice its integer part, plus 1 when the root
is not exact, rounds as the root itself does. -/
def cbrt (x : Word) : Word :=
  if !isFinite x then undefinedOperand
  else
    let n := funits x * 2 ^ 298
    let r := icbrtFrom n 192 0
    packSign (fsign x) (roundUnits (2 * r + if r ^ 3 = n then 0 else 1) 2)

/-- `NUM_REF`. -/
def num : Numerics := { cbrt := cbrt, atan2 := atan2, sin := sin, cos := cos, exp := exp }

end Sys2Proof.Machine.Ref

namespace Sys2Proof.Machine

/-- This CDU with `NUM = NUM_REF`: the reference configuration of 95_test_vectors.md. -/
def cduRef : Params := cduWith Ref.num

end Sys2Proof.Machine
end

