-- ==== Sys2Proof/Safety.lean ====
section
/-! DEFINITION. The terms claims are stated in: the spec's tables as data (R21, R94, R96, R222), what a
safe state is, the properties of `NUM` (R13, R18, R185) and what it is to be rounded to nearest (R12). -/

namespace Sys2Proof

/-! ### The pattern view of the legal words (R96) -/

/-- The `match` column of R96. -/
def Mnemonic.matchWord : Mnemonic → Word
  | .NOP     => 0x00000000
  | .YUV2RGB => 0x00000001
  | .RGB2LAB => 0x00000002
  | .CVT     => 0x00000003
  | .DE      => 0x00000004
  | .PIXEL   => 0x00000005
  | .POW24   => 0x00000006
  | .LIN     => 0x00000007

/-- The `mask` column of R96. -/
def Mnemonic.mask : Mnemonic → Word
  | .NOP     => 0xFFFFFFFF
  | .YUV2RGB => 0xFFFFFEFF
  | .RGB2LAB => 0xFFFFFEFF
  | .CVT     => 0xFFFFFEFF
  | .DE      => 0xFFFFFFFF
  | .PIXEL   => 0xFFFFFFFF
  | .POW24   => 0xFFFFFFFF
  | .LIN     => 0xFFFFFFFF

/-- The 11 legal words (R95). -/
def legalWords : List Word :=
  [0x00000000, 0x00000001, 0x00000101, 0x00000002, 0x00000102, 0x00000003, 0x00000103, 0x00000004,
   0x00000005, 0x00000006, 0x00000007]

end Sys2Proof

namespace Sys2Proof.Machine

/-! ### What a command writes and the errors it can end in -/

/-- The three `RGBs_*` registers. -/
def rgbRegs (side : Side) : List Reg := [.rgb side .first, .rgb side .second, .rgb side .third]

/-- The three `LABs_*` registers. -/
def labRegs (side : Side) : List Reg := [.lab side .first, .lab side .second, .lab side .third]

/-- "writes on success" of R94. -/
def writes : Instr → List Reg
  | .nop          => []
  | .yuv2rgb side => rgbRegs side
  | .rgb2lab side => labRegs side
  | .cvt side     => rgbRegs side ++ labRegs side
  | .de           => [.de]
  | .pixel        => rgbRegs .one ++ rgbRegs .two ++ labRegs .one ++ labRegs .two ++ [.de]
  | .pow24        => [.p]
  | .lin          => [.p]

/-- The pairs of `ERRCODE` and `ERRINFO` of R222. -/
def errorPairs : List (Nat × Nat) :=
  [(1, 3), (2, 2), (3, 5), (3, 6), (3, 7), (4, 8), (4, 9), (4, 10), (4, 12), (4, 13), (4, 14),
   (5, 32), (5, 16), (5, 17), (5, 18), (5, 20), (5, 21), (5, 22), (5, 24), (5, 25), (5, 26),
   (5, 28), (5, 29), (5, 30)]

/-- The registers whose writes are dropped while busy, `CMD` apart (R67): `CFG`, the weights and the
operand registers. -/
def Reg.frozen : Reg → Bool
  | .id      => false
  | .ctrl    => false
  | .cfg     => true
  | .cmd     => false
  | .status  => false
  | .kl      => true
  | .kc      => true
  | .kh      => true
  | .yuv _ _ => true
  | .rgb _ _ => true
  | .lab _ _ => true
  | .x       => true
  | .p       => false
  | .de      => false

/-- The writable bits of a register written whole (R23, R25, R26, R34). -/
def Reg.writable : Reg → Word
  | .id      => 0
  | .ctrl    => 0x00000001
  | .cfg     => 0x00000003
  | .cmd     => 0
  | .status  => 0
  | .kl      => 0xFFFFFFFF
  | .kc      => 0xFFFFFFFF
  | .kh      => 0xFFFFFFFF
  | .yuv _ _ => 0x0000FFFF
  | .rgb _ _ => 0xFFFFFFFF
  | .lab _ _ => 0xFFFFFFFF
  | .x       => 0xFFFFFFFF
  | .p       => 0
  | .de      => 0

/-- The first of some operands that fails its condition, by word index (R223: "in this order"). -/
def firstBad {α : Type} (ok : α → Bool) : List (Nat × α) → Option Nat
  | [] => none
  | (i, v) :: rest => if ok v then firstBad ok rest else some i

/-- The weights as R188 lists them: `KL` 5, `KC` 6, `KH` 7. -/
def Weights.indexed (k : Weights) : List (Nat × Word) := [(5, k.kl), (6, k.kc), (7, k.kh)]

/-- A Sample Triple's registers by word index from the first. -/
def Yuv.indexed (i : Nat) (t : Yuv) : List (Nat × BitVec 16) := [(i, t.y), (i + 1, t.u), (i + 2, t.v)]

/-- An RGB Triple's registers by word index from the first. -/
def Rgb.indexed (i : Nat) (t : Rgb) : List (Nat × Word) := [(i, t.r), (i + 1, t.g), (i + 2, t.b)]

/-- A CIELAB Point's registers by word index from the first. -/
def Lab.indexed (i : Nat) (t : Lab) : List (Nat × Word) := [(i, t.l), (i + 1, t.a), (i + 2, t.b)]

/-- `finite(k) and K_MIN <= k <= K_MAX` with the patterns of R9 written out. -/
def weightInRange (k : Word) : Bool := isFinite k && fle 0x3B800000 k && fle k 0x43800000

/-- `finite(c) and abs(c) <= 16`. -/
def rgbInRange (c : Word) : Bool := isFinite c && fle (fabs c) 0x41800000

/-- `finite(v) and abs(v) < 16384`. -/
def labInRange (v : Word) : Bool := isFinite v && flt (fabs v) 0x46800000

/-- The table of R222 and R223 in numbers: the `ERRCODE` and `ERRINFO` a command must end with on these
register contents, if any. `CVT` has the checks of `YUV2RGB` (R223). -/
def expectedError (i : Instr) (s : State) : Option (Nat × Nat) :=
  let depth := 8 + 2 * s.bd.toNat
  let samples := firstBad (fun v : BitVec 16 => decide (v.toNat ≤ 2 ^ depth - 1))
  let converter := fun side : Side =>
    if s.bd = 3 then some (2, 2)
    else (samples ((s.bank side).yuv.indexed (if side = .one then 8 else 12))).map (fun k => (4, k))
  match i with
  | .nop => none
  | .yuv2rgb side => converter side
  | .cvt side => converter side
  | .rgb2lab side =>
      (firstBad rgbInRange ((s.bank side).rgb.indexed (if side = .one then 16 else 20))).map
        (fun k => (5, k))
  | .de =>
      match firstBad weightInRange s.weights.indexed with
      | some k => some (3, k)
      | none =>
          (firstBad labInRange (s.side1.lab.indexed 24 ++ s.side2.lab.indexed 28)).map
            (fun k => (5, k))
  | .pixel =>
      if s.bd = 3 then some (2, 2)
      else match firstBad weightInRange s.weights.indexed with
        | some k => some (3, k)
        | none => (samples (s.side1.yuv.indexed 8 ++ s.side2.yuv.indexed 12)).map (fun k => (4, k))
  | .pow24 =>
      if fsign s.x = false ∧ 123 ≤ fexp s.x ∧ fexp s.x ≤ 130 then none else some (5, 32)
  | .lin => if rgbInRange s.x then none else some (5, 32)

/-- The state an error must leave (R224, R225), in numbers: only STATUS changes, the latch keeps the
first error, the unit is idle. -/
def State.withError (s : State) (code info : Nat) : State :=
  { s with
    busy := false
    status :=
      { s.status with
        err := true
        errCode := if s.status.err then s.status.errCode else BitVec.ofNat 4 code
        errInfo := if s.status.err then s.status.errInfo else BitVec.ofNat 8 info } }

/-! ### Safe states -/

/-- The reset column of R21, by word index. -/
def resetTable : List (Nat × Word) :=
  [(0, 0xDE200007), (1, 0), (2, 0), (3, 0), (4, 0), (5, 0x3F266666), (6, 0x3F800000), (7, 0x40800000),
   (8, 0), (9, 0), (10, 0), (12, 0), (13, 0), (14, 0), (16, 0), (17, 0), (18, 0), (20, 0), (21, 0),
   (22, 0), (24, 0), (25, 0), (26, 0), (28, 0), (29, 0), (30, 0), (32, 0), (33, 0), (34, 0)]

/-- The state after reset as R261 lists it: every register at its reset value, reserved offsets and bits
reading 0, the unit idle, the interrupt low. -/
def State.AtReset (s : State) : Prop :=
  (∀ row ∈ resetTable, s.wordAt row.1 = row.2) ∧
  (∀ i, i ∉ resetTable.map Prod.fst → s.wordAt i = 0) ∧
  s.busy = false ∧ s.irq = false

/-- The launch premise `CleanEntry` (R272). -/
def State.CleanEntry (s : State) : Prop :=
  s.busy = false ∧ s.statusWord = 0 ∧ s.bd ≠ 0b11 ∧
  ∀ k ∈ [s.weights.kl, s.weights.kc, s.weights.kh],
    isFinite k = true ∧ fle kMin k = true ∧ fle k kMax = true

/-- A host program has ended (R273): its last access is performed and the unit is idle. -/
def State.Ended (s : State) : Prop := s.host = [] ∧ s.busy = false

/-- The error latch is coherent: no code without ERR (R31), and with ERR a pair of R222 (the reserved
codes are "never produced"). -/
def Status.Coherent (f : Status) : Prop :=
  if f.err then (f.errCode.toNat, f.errInfo.toNat) ∈ errorPairs else f.errCode = 0 ∧ f.errInfo = 0

/-- The invariant of the machine: the latch is coherent, `DE` is never below 0 (R186), and while reset is
asserted every register reads as after reset (R260). -/
structure State.Inv (s : State) : Prop where
  latch     : s.status.Coherent
  deNonneg  : flt s.de cZero = false
  resetHeld : s.inReset = true → s.AtReset

/-- The turns to come hold no reset. -/
def State.NoReset (s : State) : Prop := ∀ b, Turn.reset b ∉ s.turns

/-! ### Properties of `NUM` -/

/-- The binary32 nearest π. -/
def cPi : Word := 0x40490FDB

/-- 2^10. -/
def c1024 : Word := 0x44800000

/-- What R185 assumes of `NUM`: `COS` and `SIN` in [−1, 1], `ATAN2` in [−π, π], `EXP` of a non-positive
operand in [0, 1]. -/
structure Bounded (n : Numerics) : Prop where
  sin_le   : ∀ x, isFinite x = true → fle (fabs (n.sin x)) cOne = true
  cos_le   : ∀ x, isFinite x = true → fle (fabs (n.cos x)) cOne = true
  atan2_le : ∀ y x, isFinite y = true → isFinite x = true → fle (fabs (n.atan2 y x)) cPi = true
  exp_le   : ∀ x, isFinite x = true → fle x cZero = true →
    fle cZero (n.exp x) = true ∧ fle (n.exp x) cOne = true

/-- `SIN(−x) = −SIN(x)` (R187); read as values it makes `SIN(+0)` a zero (log 18). -/
def SinOdd (n : Numerics) : Prop :=
  (∀ x, isFinite x = true → n.sin (fneg x) = fneg (n.sin x)) ∧ feq (n.sin cZero) cZero = true

/-- A bound a cube root meets on the operands step 2 has (R141, R144). -/
def CbrtBounded (n : Numerics) : Prop :=
  ∀ t, isFinite t = true → flt cZero t = true → fle t c1024 = true →
    fle cZero (n.cbrt t) = true ∧ fle (n.cbrt t) cSixteen = true

/-- A CIELAB Point inside `LAB_LIMIT` (R37). -/
def Lab.Ok (t : Lab) : Prop :=
  ∀ v ∈ [t.l, t.a, t.b], isFinite v = true ∧ flt (fabs v) labLimit = true

/-- An RGB Triple inside `RGB_LIMIT` (R36). -/
def Rgb.Ok (t : Rgb) : Prop :=
  ∀ v ∈ [t.r, t.g, t.b], isFinite v = true ∧ fle (fabs v) rgbLimit = true

/-- Weights inside [`K_MIN`, `K_MAX`] (R33). -/
def Weights.Ok (k : Weights) : Prop :=
  ∀ v ∈ [k.kl, k.kc, k.kh], isFinite v = true ∧ fle kMin v = true ∧ fle v kMax = true

/-- A Sample Triple in range at a bit depth (R34). -/
def Yuv.Ok (depth : Nat) (t : Yuv) : Prop :=
  ∀ v ∈ [t.y, t.u, t.v], v.toNat ≤ 2 ^ depth - 1

/-! ### Rounding to nearest, ties to even (R12) -/

/-- The least magnitude, in units of 2^-149, that rounds to an infinity: half a last place above the
largest finite binary32. -/
def overflowUnits : Int := 2 ^ 277 - 2 ^ 252

/-- `r` is the binary32 nearest `num / den` units of 2^-149 (`den` above 0), ties to even: no finite
binary32 is nearer, and when another value is as near, `r` is even; from `overflowUnits` on, it is the
infinity of that sign. -/
def RoundsTo (r : Word) (num den : Int) : Prop :=
  if |num| < overflowUnits * den then
    isFinite r = true ∧
    ∀ c, isFinite c = true →
      |fvalue r * den - num| ≤ |fvalue c * den - num| ∧
      (|fvalue r * den - num| = |fvalue c * den - num| → fvalue c = fvalue r ∨ r.getLsbD 0 = false)
  else isInf r = true ∧ fsign r = decide (num < 0)

end Sys2Proof.Machine
end

