-- ==== Sys2Proof/Certificates/Slice0/Obligations.lean ====
section
/-! DEFINITION. The statements for the provers, in the order of OBLIGATIONS.json. Each docstring names
the rule of spec/ it rests on. -/

open Sys2Proof Sys2Proof.Machine

/-! ### Encoding (30_encoding.md) -/

/-- R95, R96, R98: a word decodes to a command exactly when it is that command's word. No word has two
meanings and no bit of a word is dropped. -/
def Obligations.WordDecodesExactlyToItsCommand : Prop :=
  ∀ (w : Word) (i : Instr), decode w = some i ↔ w = encode i

/-- R95: "Exactly 11 words are legal". -/
def Obligations.LegalWordsAreExactlyEleven : Prop :=
  ∀ w : Word, decode w ≠ none ↔ w ∈ legalWords

/-- R96: the pattern view. A word is command m when `(w & mask_m) == match_m`; the rows do not overlap;
`s` is bit 8. -/
def Obligations.PatternRowsDecode : Prop :=
  (∀ (w : Word) (m : Mnemonic),
    (∃ i, decode w = some i ∧ i.mnemonic = m) ↔ w &&& m.mask = m.matchWord) ∧
  (∀ (w : Word) (m m' : Mnemonic),
    w &&& m.mask = m.matchWord → w &&& m'.mask = m'.matchWord → m = m') ∧
  (∀ (w : Word) (i : Instr) (side : Side),
    decode w = some i → i.side? = some side → (w.getLsbD 8 = true ↔ side = .two))

/-- R92, R93: `RSV` must be 0 whatever `OP` is; `side(w) = 1 + w[8]` for a per-side command; for another,
`S = 1` is illegal. -/
def Obligations.SideAndReservedFields : Prop :=
  (∀ w : Word, w.extractLsb' 9 23 ≠ 0 → decode w = none) ∧
  (∀ (w : Word) (i : Instr) (side : Side), decode w = some i → i.side? = some side →
    side.number = 1 + (w.extractLsb' 8 1).toNat) ∧
  (∀ (w : Word) (i : Instr), decode w = some i → (i.side? = none ↔ i.mnemonic.perSide = false)) ∧
  (∀ (w : Word) (i : Instr), decode w = some i → i.mnemonic.perSide = false → w.getLsbD 8 = false)

/-- R101: the worked encodings, and how the two illegal words complete when it is the unit's turn and no
error is held. -/
def Obligations.WorkedEncodings : Prop :=
  encode (.cvt .two) = (1 <<< 8) ||| 0x03 ∧ encode (.cvt .two) = 0x00000103 ∧
  decode 0x00000103 = some (.cvt .two) ∧ decode 0x00000002 = some (.rgb2lab .one) ∧
  ∀ (s : State) (ts : List Turn) (w : Word), w = 0x00000104 ∨ w = 0x80000004 →
    decode w = none ∧
    (s.busy = true → s.pending = w → s.status.err = false → s.turns = .unit :: ts →
      ∃ t, step s = .next t ∧ t.status.err = true ∧ t.status.errCode = 1 ∧ t.status.errInfo = 3)

/-- R90: a command is one word. That its bytes are laid out and read the lowest first, as R62 has the
bytes of a register, is the model's reading (log 15): R62 says that the byte order of instructions does not
arise. -/
def Obligations.BytesDecodeToTheirCommand : Prop :=
  ∀ (i : Instr) (rest : List Byte),
    decodeBytes (bytesOfWord (encode i) ++ rest) = some (i, rest) ∧
    decodeTableWord 32 (encode i).toNat = some i

/-! ### The register window (10_state.md, 20_memory.md) -/

/-- R21, R23: what the window holds at each word index of the map. -/
def Obligations.RegisterMapReads : Prop :=
  ∀ s : State,
    s.wordAt 0 = 0xDE200007 ∧
    s.wordAt 1 = (if s.ie then 1 else 0) ∧
    (s.wordAt 2).toNat = s.bd.toNat ∧
    s.wordAt 3 = 0 ∧
    (s.wordAt 4).toNat =
      (if s.busy then 1 else 0) + (if s.status.done then 2 else 0) + (if s.status.err then 4 else 0)
        + (if s.status.ovr then 8 else 0) + s.status.errCode.toNat * 2 ^ 8
        + s.status.errInfo.toNat * 2 ^ 16 ∧
    s.wordAt 5 = s.weights.kl ∧ s.wordAt 6 = s.weights.kc ∧ s.wordAt 7 = s.weights.kh ∧
    (s.wordAt 8).toNat = s.side1.yuv.y.toNat ∧ (s.wordAt 9).toNat = s.side1.yuv.u.toNat ∧
    (s.wordAt 10).toNat = s.side1.yuv.v.toNat ∧
    (s.wordAt 12).toNat = s.side2.yuv.y.toNat ∧ (s.wordAt 13).toNat = s.side2.yuv.u.toNat ∧
    (s.wordAt 14).toNat = s.side2.yuv.v.toNat ∧
    s.wordAt 16 = s.side1.rgb.r ∧ s.wordAt 17 = s.side1.rgb.g ∧ s.wordAt 18 = s.side1.rgb.b ∧
    s.wordAt 20 = s.side2.rgb.r ∧ s.wordAt 21 = s.side2.rgb.g ∧ s.wordAt 22 = s.side2.rgb.b ∧
    s.wordAt 24 = s.side1.lab.l ∧ s.wordAt 25 = s.side1.lab.a ∧ s.wordAt 26 = s.side1.lab.b ∧
    s.wordAt 28 = s.side2.lab.l ∧ s.wordAt 29 = s.side2.lab.a ∧ s.wordAt 30 = s.side2.lab.b ∧
    s.wordAt 32 = s.x ∧ s.wordAt 33 = s.p ∧ s.wordAt 34 = s.de

/-- R22: "A read of a reserved offset returns 0x00000000. A write to one has no effect. Neither sets any
STATUS bit." -/
def Obligations.ReservedOffsetsReadZeroIgnoreWrites : Prop :=
  ∀ (s : State) (off : BitVec 12), s.inReset = false → off.toNat % 4 = 0 →
    (off.toNat ∈ [0x02C, 0x03C, 0x04C, 0x05C, 0x06C, 0x07C] ∨ 0x08C ≤ off.toNat) →
    s.busAccess (.read off .w32) = .next { s with reads := 0 :: s.reads } ∧
    ∀ w, s.busAccess (.write off .w32 w) = .next s

/-- R63, R247: an access that is not 32 bits wide or not aligned is a bus error; every other access is
performed. -/
def Obligations.OnlyAlignedWordAccessesArePerformed : Prop :=
  ∀ (s : State) (off : BitVec 12) (width : Width) (w : Word),
    (width ≠ .w32 ∨ off.toNat % 4 ≠ 0 →
      s.busAccess (.read off width) = .fault (.busError (.read off width)) ∧
      s.busAccess (.write off width w) = .fault (.busError (.write off width w))) ∧
    (width = .w32 → off.toNat % 4 = 0 →
      (∃ t, s.busAccess (.read off width) = .next t) ∧
      (∃ t, s.busAccess (.write off width w) = .next t))

/-- R64, R70: a read hands over the register's content of that moment and changes nothing. -/
def Obligations.ReadsHaveNoSideEffect : Prop :=
  ∀ (s : State) (r : Reg), s.inReset = false →
    s.busAccess (.read r.offset .w32) = .next { s with reads := s.readReg r :: s.reads }

/-- R65, R73, R268: a read that follows a write to the same register sees its writable bits, and a write
to a register leaves every other register alone. `CTRL` takes a write even while busy. That the hidden word
stays while idle is the model's choice (log 1). -/
def Obligations.ReadFollowsWrite : Prop :=
  ∀ (s : State) (r : Reg) (w : Word), s.inReset = false →
    (r = .ctrl ∨ r.frozen = true ∧ s.busy = false) →
    ∃ t, s.busAccess (.write r.offset .w32 w) = .next t ∧
      t.readReg r = w &&& r.writable ∧ (∀ r', r' ≠ r → t.readReg r' = s.readReg r') ∧
      t.pending = s.pending ∧ t.busy = s.busy

/-- R65: "Writing the same word twice leaves the same state as writing it once", for any register other
than `CMD` and `STATUS`. -/
def Obligations.WritingTwiceIsWritingOnce : Prop :=
  ∀ (s t u : State) (r : Reg) (w : Word), r ≠ .cmd → r ≠ .status →
    s.busAccess (.write r.offset .w32 w) = .next t →
    t.busAccess (.write r.offset .w32 w) = .next u → u = t

/-- R66: `accept_command(w)`, for every word, legal or not. -/
def Obligations.CommandAcceptance : Prop :=
  ∀ (s : State) (w : Word), s.inReset = false →
    (s.busy = true → s.busAccess (.write 0x00C .w32 w) =
      .next { s with status := { s.status with ovr := true } }) ∧
    (s.busy = false → s.busAccess (.write 0x00C .w32 w) =
      .next { s with busy := true, pending := w })

/-- R67, R65, R23: while busy, writes to `CMD`, `CFG`, the weights and the operand registers are dropped with OVR,
writes to `STATUS` and `CTRL` take effect; writes to read-only registers and reserved offsets have none, busy
or idle; so what a command reads stays the same from acceptance to completion. -/
def Obligations.BusyFreezesOperands : Prop :=
  (∀ (s : State) (r : Reg) (w : Word), s.busy = true → s.inReset = false →
    ((r = .cmd ∨ r.frozen = true) →
      s.busAccess (.write r.offset .w32 w) =
        .next { s with status := { s.status with ovr := true } }) ∧
    (r = .ctrl → s.busAccess (.write r.offset .w32 w) = .next { s with ie := w.getLsbD 0 }) ∧
    (r = .status → s.busAccess (.write r.offset .w32 w) =
      .next { s with status :=
        { done := if w.getLsbD 1 then false else s.status.done
          err := if w.getLsbD 2 then false else s.status.err
          errCode := if w.getLsbD 2 then 0 else s.status.errCode
          errInfo := if w.getLsbD 2 then 0 else s.status.errInfo
          ovr := if w.getLsbD 3 then false else s.status.ovr } })) ∧
  (∀ (s : State) (r : Reg) (w : Word), s.inReset = false → r = .id ∨ r = .p ∨ r = .de →
    s.busAccess (.write r.offset .w32 w) = .next s) ∧
  (∀ (s : State) (off : BitVec 12) (w : Word), s.inReset = false → off.toNat % 4 = 0 →
    (off.toNat ∈ [0x02C, 0x03C, 0x04C, 0x05C, 0x06C, 0x07C] ∨ 0x08C ≤ off.toNat) →
    s.busAccess (.write off .w32 w) = .next s) ∧
  (∀ s t : State, step s = .next t → s.busy = true → t.busy = true →
    t.pending = s.pending ∧ ∀ r, r ≠ .status → r ≠ .ctrl → t.readReg r = s.readReg r)

/-- R28, R65: a host write to STATUS clears DONE by bit 1, the error latch by bit 2 and OVR by bit 3, and
changes nothing else; R230, R233: writing 0x6 lowers the interrupt. -/
def Obligations.StatusIsWriteOneToClear : Prop :=
  ∀ (s : State) (w : Word), s.inReset = false →
    ∃ t, s.busAccess (.write 0x010 .w32 w) = .next t ∧
      t = { s with status := t.status } ∧
      t.status.done = (s.status.done && !w.getLsbD 1) ∧
      t.status.err = (s.status.err && !w.getLsbD 2) ∧
      t.status.errCode = (if w.getLsbD 2 then 0 else s.status.errCode) ∧
      t.status.errInfo = (if w.getLsbD 2 then 0 else s.status.errInfo) ∧
      t.status.ovr = (s.status.ovr && !w.getLsbD 3) ∧
      (w = 0x6 → t.irq = false)

/-- R42, R234: the interrupt is the level `IE and (DONE or ERR)`; setting or clearing `IE` acts on it at
once and leaves DONE and ERR; a poll changes neither. -/
def Obligations.InterruptLevel : Prop :=
  ∀ s : State,
    (s.irq = true ↔ s.ie = true ∧ (s.status.done = true ∨ s.status.err = true)) ∧
    (∀ w, s.inReset = false → ∃ t, s.busAccess (.write 0x004 .w32 w) = .next t ∧
      t.status = s.status ∧
      (w.getLsbD 0 = true → (t.irq = true ↔ s.status.done = true ∨ s.status.err = true)) ∧
      (w.getLsbD 0 = false → t.irq = false)) ∧
    (∀ rest, s.host = .poll :: rest →
      ∃ t, s.hostMove = .next t ∧ t.ie = s.ie ∧ t.status = s.status ∧ t.irq = s.irq)

/-- R29 to R32: the only ways a STATUS bit changes in a step that is not the reset input's. ERRCODE and
ERRINFO change only with ERR: they are kept while it stays 1, and while it stays 0 where they are 0 to begin
with (`Status.Coherent`, an invariant by `EveryStepKeepsInv`). -/
def Obligations.StatusBitsChangeOnlyAsTold : Prop :=
  ∀ s t : State, step s = .next t → (∀ b, s.turns.head? ≠ some (.reset b)) →
    (s.busy = false → t.busy = true →
      ∃ w rest, s.host = .access (.write 0x00C .w32 w) :: rest ∧ t.pending = w) ∧
    (s.busy = true → t.busy = false → s.turns = [] ∨ s.turns.head? = some .unit) ∧
    (s.status.done = false → t.status.done = true →
      s.busy = true ∧ t.busy = false ∧ ∃ i, decode s.pending = some i) ∧
    (s.status.done = true → t.status.done = false →
      ∃ w rest, s.host = .access (.write 0x010 .w32 w) :: rest ∧ w.getLsbD 1 = true) ∧
    (s.status.err = false → t.status.err = true →
      s.busy = true ∧ t.busy = false ∧
      (t.status.errCode.toNat, t.status.errInfo.toNat) ∈ errorPairs) ∧
    (s.status.err = true → t.status.err = true →
      t.status.errCode = s.status.errCode ∧ t.status.errInfo = s.status.errInfo) ∧
    (s.status.Coherent → s.status.err = false → t.status.err = false →
      t.status.errCode = s.status.errCode ∧ t.status.errInfo = s.status.errInfo) ∧
    (s.status.err = true → t.status.err = false →
      t.status.errCode = 0 ∧ t.status.errInfo = 0 ∧
      ∃ w rest, s.host = .access (.write 0x010 .w32 w) :: rest ∧ w.getLsbD 2 = true) ∧
    (s.status.ovr = false → t.status.ovr = true →
      s.busy = true ∧ ∃ (r : Reg) (w : Word) (rest : List HostOp), s.host = .access (.write r.offset .w32 w) :: rest ∧
        (r = .cmd ∨ r.frozen = true)) ∧
    (s.status.ovr = true → t.status.ovr = false →
      ∃ w rest, s.host = .access (.write 0x010 .w32 w) :: rest ∧ w.getLsbD 3 = true)

/-! ### Completion and errors (60_exceptions.md) -/

/-- R224, R225: every command ends, and either without error or with an error that changes no register
other than STATUS, leaves DONE alone, and latches its code and register only when no error is held. -/
def Obligations.CommandsEndOkOrInAPreciseError : Prop :=
  ∀ (i : Instr) (s : State), ∃ t, exec i s = .next t ∧ t.busy = false ∧
    ((t.status = { s.status with done := true }) ∨
     (∃ code info, (code, info) ∈ errorPairs ∧
        t = { s with busy := false, status := t.status } ∧
        (∀ r, r ≠ .status → t.readReg r = s.readReg r) ∧
        t.status.done = s.status.done ∧ t.status.ovr = s.status.ovr ∧ t.status.err = true ∧
        (s.status.err = false →
          t.status.errCode.toNat = code ∧ t.status.errInfo.toNat = info) ∧
        (s.status.err = true →
          t.status.errCode = s.status.errCode ∧ t.status.errInfo = s.status.errInfo)))

/-- R94, R224: the frame of every command. Every byte of the window outside STATUS and the registers the
command writes reads as before, and so does everything the window does not show. That the hidden word stays
after the completion is the model's choice (log 1). -/
def Obligations.CommandsWriteOnlyTheirResults : Prop :=
  ∀ (i : Instr) (s t : State), exec i s = .next t →
    (∀ a, a < 4096 → a / 4 ≠ Reg.status.index → (∀ r ∈ writes i, a / 4 ≠ r.index) →
      t.byteAt a = s.byteAt a) ∧
    (∀ r, r ≠ .status → r ∉ writes i → t.readReg r = s.readReg r) ∧
    t.ie = s.ie ∧ t.status.ovr = s.status.ovr ∧ t.pending = s.pending ∧ t.inReset = s.inReset ∧
    t.host = s.host ∧ t.turns = s.turns ∧ t.reads = s.reads ∧ t.freeReads = s.freeReads

/-- R222, R223: the first check that fails, in the order of the table, is the error a command ends with;
a command but `CVT` whose checks all pass ends without error (for `CVT` see `CvtCompletes`). -/
def Obligations.FirstFailedCheckIsReported : Prop :=
  ∀ (i : Instr) (s : State),
    (∀ code info, expectedError i s = some (code, info) →
      exec i s = .next (s.withError code info)) ∧
    (expectedError i s = none → (∀ side, i ≠ .cvt side) →
      ∃ t, exec i s = .next t ∧ t.status = { s.status with done := true } ∧ t.busy = false)

/-- R97, R221: an illegal word completes with `E_OPCODE`, `ERRINFO` 3, and no register other than STATUS
changes. -/
def Obligations.IllegalWordsEndInOpcodeError : Prop :=
  ∀ (s : State) (ts : List Turn), s.busy = true → s.turns = .unit :: ts → decode s.pending = none →
    step s = .next ({ s with turns := ts }.withError 1 3)

/-! ### Steps, agents and runs -/

/-- R221: when it is the unit's turn and the word in flight decodes to a command, the step is that
command's meaning in the state with the turn used up. That the unit moves when no turn is prescribed is the
model's choice (log 2). -/
def Obligations.StepRunsTheDecodedCommand : Prop :=
  ∀ (s : State) (i : Instr), s.busy = true → decode s.pending = some i →
    (s.turns = [] → step s = exec i s) ∧
    (∀ ts, s.turns = .unit :: ts → step s = exec i { s with turns := ts })

/-- R73, R100, R246, R260: what a step does on the other turns. -/
def Obligations.StepPerformsTheOtherMoves : Prop :=
  ∀ (s : State) (ts : List Turn),
    (∀ a rest, s.turns = .host :: ts → s.host = .access a :: rest →
      step s = { s with turns := ts, host := rest }.busAccess a) ∧
    (∀ rest, s.turns = .host :: ts → s.host = .poll :: rest → s.inReset = false →
      step s = .next { s with
        turns := ts, reads := s.statusWord :: s.reads,
        host := if s.busy then .poll :: rest else rest }) ∧
    (s.turns = .host :: ts → s.host = [] → step s = .next { s with turns := ts }) ∧
    (s.turns = .unit :: ts → s.busy = false → step s = .next { s with turns := ts }) ∧
    (s.turns = [] → s.busy = false → s.host = [] → step s = .next s) ∧
    (s.turns = .reset false :: ts → step s = .next { s with turns := ts, inReset := false })

/-- R221, R247: "whenever `busy = 1`, `complete()` is enabled", whatever the word in flight. That it is
taken when no turn is prescribed is the model's choice (log 2). -/
def Obligations.CompletionIsAlwaysEnabled : Prop :=
  ∀ s : State, s.busy = true → (s.turns = [] ∨ s.turns.head? = some .unit) →
    ∃ t, step s = .next t ∧ t.busy = false ∧ t.host = s.host ∧ t.reads = s.reads

/-- R247: nothing is refused, and the machine stops only at a host access that is misaligned or not 32
bits wide. -/
def Obligations.OnlyRefusedAccessesStop : Prop :=
  ∀ s : State,
    (∀ r, step s ≠ .refused r) ∧
    (∀ f, step s = .fault f →
      ∃ a rest, s.host = .access a :: rest ∧ a.accepted = false ∧ f = .busError a)

/-- R38, R39: only the completion of `POW24` or `LIN` writes `P`, only that of `DE` or `PIXEL` writes
`DE` (a reset aside). -/
def Obligations.PAndDeHaveTheirOnlyWriters : Prop :=
  ∀ s t : State, step s = .next t → (∀ b, s.turns.head? ≠ some (.reset b)) →
    (t.p ≠ s.p → s.busy = true ∧ (decode s.pending = some .pow24 ∨ decode s.pending = some .lin)) ∧
    (t.de ≠ s.de → s.busy = true ∧ (decode s.pending = some .de ∨ decode s.pending = some .pixel))

/-- R31, R186, R222, R260: every step keeps the invariant, from every state that meets it. -/
def Obligations.EveryStepKeepsInv : Prop :=
  ∀ s t : State, s.Inv → step s = .next t → t.Inv

/-- The state after reset meets the invariant. -/
def Obligations.ResetMeetsInv : Prop := State.reset.Inv

/-- R41, R260: `pending` is never observable while the unit is idle: neither the step shows it, nor, where
the step accepts a command, is it the word then in flight. -/
def Obligations.PendingIsInvisibleWhileIdle : Prop :=
  ∀ (s : State) (w : Word), s.busy = false →
    (∀ t, step s = .next t →
      ∃ v, step { s with pending := w } = .next { t with pending := v } ∧
        (t.busy = true → v = t.pending)) ∧
    (∀ f, step s = .fault f → step { s with pending := w } = .fault f)

/-- R74: the host writes `CMD` while idle and then polls; once its poll has ended, that command has
completed, and every register reads as its completion left it. The turns may interleave in any way. -/
def Obligations.PollReturnsAfterCompletion : Prop :=
  ∀ (s t : State) (w : Word) (n : Nat),
    s.busy = false → s.inReset = false → s.NoReset → s.host = [.wr .cmd w, .poll] →
    core.run n s = .next t → t.host = [] →
    ∃ u, { s with busy := true, pending := w }.complete = .next u ∧
      t.busy = false ∧ t.reads.head? = some u.statusWord ∧ ∀ r, t.readReg r = u.readReg r

/-- R16, R100, R247: a `RUN` ends, under every interleaving: after at most three steps more than the
turns prescribed, the poll has ended and the unit is idle. That a busy unit moves when no turn is prescribed
is the model's choice (log 2). -/
def Obligations.RunCommandEnds : Prop :=
  ∀ (s : State) (i : Instr), s.busy = false → s.inReset = false → s.NoReset →
    s.host = HostOp.run i →
    ∃ t, core.run (s.turns.length + 3) s = .next t ∧ t.Ended

/-! ### Reset (70_reset_and_hazards.md) -/

/-- R261: the state after reset, every field. -/
def Obligations.ResetValues : Prop :=
  State.reset.AtReset ∧ State.reset.bd = 0 ∧ State.reset.ie = false ∧
  State.reset.status = { done := false, err := false, ovr := false, errCode := 0, errInfo := 0 } ∧
  State.reset.side1 = Bank.zero ∧ State.reset.side2 = Bank.zero

/-- R260: asserting reset takes any state there, abandoning a command in flight; during reset a write has
no effect and a read changes no register. -/
def Obligations.ResetFromAnyState : Prop :=
  (∀ (s : State) (ts : List Turn), s.turns = .reset true :: ts →
    ∃ t, step s = .next t ∧ t.AtReset ∧ t.inReset = true ∧ t.host = s.host ∧ t.turns = ts ∧
      t.reads = s.reads) ∧
  (∀ (s : State) (r : Reg) (w : Word), s.inReset = true →
    s.busAccess (.write r.offset .w32 w) = .next s ∧
    ∃ v t, s.busAccess (.read r.offset .w32) = .next t ∧ t.reads = v :: s.reads ∧
      ∀ r', t.readReg r' = s.readReg r')

/-- R272: "The state after reset satisfies `CleanEntry`." -/
def Obligations.ResetIsCleanEntry : Prop := State.reset.CleanEntry

/-- R262: writing each read-write register's reset value and 0xE to STATUS while idle restores what reads
as after reset; `P` and `DE` are read-only and keep their values (log 19). -/
def Obligations.SoftwareRestoresReset : Prop :=
  ∀ s : State, s.busy = false →
    let t :=
      [(Reg.ctrl, 0x00000000#32), (.cfg, 0), (.kl, 0x3F266666), (.kc, 0x3F800000), (.kh, 0x40800000),
       (.yuv .one .first, 0), (.yuv .one .second, 0), (.yuv .one .third, 0),
       (.yuv .two .first, 0), (.yuv .two .second, 0), (.yuv .two .third, 0),
       (.rgb .one .first, 0), (.rgb .one .second, 0), (.rgb .one .third, 0),
       (.rgb .two .first, 0), (.rgb .two .second, 0), (.rgb .two .third, 0),
       (.lab .one .first, 0), (.lab .one .second, 0), (.lab .one .third, 0),
       (.lab .two .first, 0), (.lab .two .second, 0), (.lab .two .third, 0),
       (.x, 0), (.status, 0x0000000E)].foldl (fun (st : State) rw => st.writeReg rw.1 rw.2) s
    (∀ r, r ≠ .p → r ≠ .de → t.readReg r = State.reset.readReg r) ∧ t.p = s.p ∧ t.de = s.de

/-! ### Binary32 arithmetic (00_scope.md R12) -/

/-- R12: `+` and `-` are one operation rounded to nearest, ties to even; an exact zero is +0 unless both
terms are negative. -/
def Obligations.AddAndSubtractRoundToNearest : Prop :=
  ∀ a b : Word, isFinite a = true → isFinite b = true →
    RoundsTo (fadd a b) (fvalue a + fvalue b) 1 ∧
    RoundsTo (fsub a b) (fvalue a - fvalue b) 1 ∧
    (fvalue a + fvalue b = 0 → fsign (fadd a b) = (fsign a && fsign b))

/-- R12: `*` and `/` are one operation rounded to nearest, ties to even, with the sign of the
quotient. -/
def Obligations.MultiplyAndDivideRoundToNearest : Prop :=
  ∀ a b : Word, isFinite a = true → isFinite b = true →
    RoundsTo (fmul a b) (fvalue a * fvalue b) (2 ^ 149) ∧
    fsign (fmul a b) = (fsign a != fsign b) ∧
    (fvalue b ≠ 0 →
      RoundsTo (fdiv a b) ((if fsign b then -fvalue a else fvalue a) * 2 ^ 149) (funits b) ∧
      fsign (fdiv a b) = (fsign a != fsign b))

/-- R12: `sqrt` is one operation rounded to nearest, ties to even. In squares: another value `c` is
reached only past the point half way to it. -/
def Obligations.SquareRootRoundsToNearest : Prop :=
  ∀ a : Word, isFinite a = true → fsign a = false →
    isFinite (fsqrt a) = true ∧ fsign (fsqrt a) = false ∧
    ∀ c, isFinite c = true → fsign c = false →
      (funits (fsqrt a) < funits c →
        4 * (funits a * 2 ^ 149) ≤ (funits (fsqrt a) + funits c) ^ 2 ∧
        (4 * (funits a * 2 ^ 149) = (funits (fsqrt a) + funits c) ^ 2 →
          (fsqrt a).getLsbD 0 = false)) ∧
      (funits c < funits (fsqrt a) →
        (funits (fsqrt a) + funits c) ^ 2 ≤ 4 * (funits a * 2 ^ 149) ∧
        ((funits (fsqrt a) + funits c) ^ 2 = 4 * (funits a * 2 ^ 149) →
          (fsqrt a).getLsbD 0 = false))

/-! ### The commands -/

/-- R200: `NOP` succeeds whatever the register contents. -/
def Obligations.NopCompletes : Prop :=
  ∀ s : State, exec .nop s =
    .next { s with status := { s.status with done := true }, busy := false }

/-- R113, R116: `POW24` on its domain, its result written out. -/
def Obligations.Pow24Completes : Prop :=
  ∀ s : State, fsign s.x = false → 123 ≤ fexp s.x → fexp s.x ≤ 130 →
    let m := packSign false (0x7F * 2 ^ 23 + ffrac s.x)
    let k := BitVec.ofNat 3 (ffrac s.x / 2 ^ 20)
    let r := fsub (fmul m (invT k)) 0x3F800000
    let corr := fadd 0x3F800000
      (fmul r (fadd 0x4019999A (fmul r (fadd 0x3FD70A3D (fmul r 0x3E656042)))))
    exec .pow24 s = .next { s with
      p := fmul (fmul (epT (BitVec.ofNat 3 (fexp s.x - 123))) (mpT k)) corr
      status := { s.status with done := true }
      busy := false }

/-- R137, R152: `LIN` on its domain, either branch. -/
def Obligations.LinCompletes : Prop :=
  ∀ s : State, isFinite s.x = true → fle (fabs s.x) 0x41800000 = true →
    exec .lin s = .next { s with
      p := if flt 0x3D20A0A1 s.x then pow24Fn (fdiv (fadd s.x 0x3D6147AE) 0x3F870A3D)
        else fdiv s.x 0x414EB852
      status := { s.status with done := true }
      busy := false }

/-- R131, R132, R134, R146: `YUV2RGB s` at a legal bit depth with samples in range, its results written
out. -/
def Obligations.Yuv2rgbCompletes : Prop :=
  ∀ (s : State) (side : Side) (depth : Nat),
    (s.bd, depth) ∈ [(0#2, 8), (1#2, 10), (2#2, 12)] → (s.bank side).yuv.Ok depth →
    let sc : Int := 2 ^ (depth - 8)
    let yn := fdiv (fofInt ((s.bank side).yuv.y.toNat - 16 * sc)) (fofInt (219 * sc))
    let un := fdiv (fofInt ((s.bank side).yuv.u.toNat - 128 * sc)) (fofInt (224 * sc))
    let vn := fdiv (fofInt ((s.bank side).yuv.v.toNat - 128 * sc)) (fofInt (224 * sc))
    exec (.yuv2rgb side) s = .next
      { s.setRgb side
          { r := fadd (fadd (fmul 0x3F800000 yn) (fmul 0x00000000 un)) (fmul 0x3FC9930C vn)
            g := fadd (fadd (fmul 0x3F800000 yn) (fmul 0xBE3FD1DD un)) (fmul 0xBEEFADF3 vn)
            b := fadd (fadd (fmul 0x3F800000 yn) (fmul 0x3FED844D un)) (fmul 0x00000000 vn) } with
        status := { s.status with done := true }
        busy := false }

/-- R138 to R143, R148: `RGB2LAB s` with its channels in range, its results written out. -/
def Obligations.Rgb2labCompletes : Prop :=
  ∀ (s : State) (side : Side), (s.bank side).rgb.Ok →
    let rl := linFn (s.bank side).rgb.r
    let gl := linFn (s.bank side).rgb.g
    let bl := linFn (s.bank side).rgb.b
    let xr := fdiv
      (fadd (fadd (fmul 0x3ED32D7C rl) (fmul 0x3EB71437 gl)) (fmul 0x3E38C49C bl)) 0x3F735200
    let yr := fadd (fadd (fmul 0x3E59C6ED rl) (fmul 0x3F371437 gl)) (fmul 0x3D93D07D bl)
    let zr := fdiv
      (fadd (fadd (fmul 0x3C9E6221 rl) (fmul 0x3DF41AEF gl)) (fmul 0x3F734721 bl)) 0x3F8B5EC8
    let f := fun t : Word =>
      if flt 0x3C111AA7 t then Config.num.cbrt t
      else fdiv (fadd (fmul 0x4461D2F7 t) 0x41800000) 0x42E80000
    exec (.rgb2lab side) s = .next
      { s.setLab side
          { l := fsub (fmul 0x42E80000 (f yr)) 0x41800000
            a := fmul 0x43FA0000 (fsub (f xr) (f yr))
            b := fmul 0x43480000 (fsub (f yr) (f zr)) } with
        status := { s.status with done := true }
        busy := false }

/-- R150: `CVT s` at a legal bit depth with samples in range writes the RGB of step 1 and the CIELAB point
of step 2; its `RGB_LIMIT` check never fires (R135). -/
def Obligations.CvtCompletes : Prop :=
  ∀ (s : State) (side : Side) (depth : Nat),
    (s.bd, depth) ∈ [(0#2, 8), (1#2, 10), (2#2, 12)] → (s.bank side).yuv.Ok depth →
    exec (.cvt side) s = .next
      { (s.setRgb side (yuv2rgbFn cdu depth (s.bank side).yuv)).setLab side
          (rgb2labFn cdu (yuv2rgbFn cdu depth (s.bank side).yuv)) with
        status := { s.status with done := true }
        busy := false }

/-- R188, R162 to R174: `DE` with weights and points in range, the eleven steps written out. `SIN`, `COS`,
`ATAN2` and `EXP` are the open `NUM` (log 5); `RT_SIGN` is -1 (90_conflicts.md C2). -/
def Obligations.DeCompletes : Prop :=
  ∀ s : State, s.weights.Ok → s.side1.lab.Ok → s.side2.lab.Ok →
    let p := s.side1.lab
    let q := s.side2.lab
    let k := s.weights
    let hyp := fun x y : Word => fsqrt (fadd (fmul x x) (fmul y y))
    let pow7 := fun c : Word =>
      let c2 := fmul c c
      let c3 := fmul c2 c
      let c6 := fmul c3 c3
      fmul c6 c
    let root7 := fun c : Word => fsqrt (fdiv (pow7 c) (fadd (pow7 c) 0x4FB5E621))
    let cbar := fmul (fadd (hyp p.a p.b) (hyp q.a q.b)) 0x3F000000
    let opg := fadd 0x3F800000 (fmul 0x3F000000 (fsub 0x3F800000 (root7 cbar)))
    let a1p := fmul p.a opg
    let a2p := fmul q.a opg
    let c1p := hyp a1p p.b
    let c2p := hyp a2p q.b
    let hue := fun b ap cp : Word =>
      if feq cp 0x00000000 then (0x00000000 : Word)
      else
        let h := fmul (Config.num.atan2 b ap) 0x42652EE1
        let h' := if flt h 0x00000000 then fadd h 0x43B40000 else h
        if fle 0x43B40000 h' then 0x00000000 else h'
    let h1p := hue p.b a1p c1p
    let h2p := hue q.b a2p c2p
    let dlp := fsub q.l p.l
    let dcp := fsub c2p c1p
    let zc := feq c1p 0x00000000 || feq c2p 0x00000000
    let d := fsub h2p h1p
    let dhp :=
      if zc then (0x00000000 : Word)
      else if flt 0x43340000 d then fsub d 0x43B40000
      else if flt d 0xC3340000 then fadd d 0x43B40000
      else d
    let dHp := fmul (fmul 0x40000000 (fsqrt (fmul c1p c2p)))
      (Config.num.sin (fmul (fmul dhp 0x3F000000) 0x3C8EFA35))
    let lbp := fmul (fadd p.l q.l) 0x3F000000
    let cbp := fmul (fadd c1p c2p) 0x3F000000
    let hs := fadd h1p h2p
    let hbp :=
      if zc then hs
      else if fle (fabs (fsub h1p h2p)) 0x43340000 then fmul hs 0x3F000000
      else if flt hs 0x43B40000 then fmul (fadd hs 0x43B40000) 0x3F000000
      else fmul (fsub hs 0x43B40000) 0x3F000000
    let cosd := fun x : Word => Config.num.cos (fmul x 0x3C8EFA35)
    let t :=
      fsub
        (fadd
          (fadd (fsub 0x3F800000 (fmul 0x3E2E147B (cosd (fsub hbp 0x41F00000))))
            (fmul 0x3E75C28F (cosd (fmul 0x40000000 hbp))))
          (fmul 0x3EA3D70A (cosd (fadd (fmul 0x40400000 hbp) 0x40C00000))))
        (fmul 0x3E4CCCCD (cosd (fsub (fmul 0x40800000 hbp) 0x427C0000)))
    let lm := fsub lbp 0x42480000
    let lm2 := fmul lm lm
    let sl := fadd 0x3F800000 (fdiv (fmul 0x3C75C28F lm2) (fsqrt (fadd 0x41A00000 lm2)))
    let sc := fadd 0x3F800000 (fmul 0x3D3851EC cbp)
    let sh := fadd 0x3F800000 (fmul (fmul 0x3C75C28F cbp) t)
    let rc := fmul 0x40000000 (root7 cbp)
    let z := fdiv (fsub hbp 0x43898000) 0x41C80000
    let dth := fmul 0x42700000 (Config.num.exp (fneg (fmul z z)))
    let rt := fmul 0xBF800000 (fmul rc (Config.num.sin (fmul dth 0x3C8EFA35)))
    let tl := fdiv dlp (fmul k.kl sl)
    let tc := fdiv dcp (fmul k.kc sc)
    let th := fdiv dHp (fmul k.kh sh)
    let r := fadd (fadd (fadd (fmul tl tl) (fmul tc tc)) (fmul th th)) (fmul (fmul rt tc) th)
    exec .de s = .next { s with
      de := fsqrt (if flt r 0x00000000 then 0x00000000 else r)
      status := { s.status with done := true }
      busy := false }

/-- R202: `PIXEL` at a legal bit depth with weights and samples in range writes its 13 results. -/
def Obligations.PixelCompletes : Prop :=
  ∀ (s : State) (depth : Nat),
    (s.bd, depth) ∈ [(0#2, 8), (1#2, 10), (2#2, 12)] → s.weights.Ok →
    s.side1.yuv.Ok depth → s.side2.yuv.Ok depth →
    let rgb1 := yuv2rgbFn cdu depth s.side1.yuv
    let rgb2 := yuv2rgbFn cdu depth s.side2.yuv
    let lab1 := rgb2labFn cdu rgb1
    let lab2 := rgb2labFn cdu rgb2
    exec .pixel s = .next { s with
      side1 := { s.side1 with rgb := rgb1, lab := lab1 }
      side2 := { s.side2 with rgb := rgb2, lab := lab2 }
      de := de2000Fn cdu lab1 lab2 s.weights
      status := { s.status with done := true }
      busy := false }

/-! ### The datapath -/

/-- R18 (`P_POW`), R114: on the `POW24` domain the result is within 1e-4 of `x^2.4`, relatively. In fifth
powers: `(1 - 1e-4)^5 x^12 < p^5 < (1 + 1e-4)^5 x^12`, in units of 2^-149. -/
def Obligations.PowerIsWithinItsRelativeError : Prop :=
  ∀ x : Word, fsign x = false → 123 ≤ fexp x → fexp x ≤ 130 →
    isFinite (pow24Fn x) = true ∧ flt cZero (pow24Fn x) = true ∧
    9999 ^ 5 * funits x ^ 12 < 10000 ^ 5 * (funits (pow24Fn x) ^ 5 * 2 ^ 1043) ∧
    10000 ^ 5 * (funits (pow24Fn x) ^ 5 * 2 ^ 1043) < 10001 ^ 5 * funits x ^ 12

/-- R141 (a): the gamma decode of a channel in range calls the power only inside its domain. -/
def Obligations.GammaStaysInThePowerDomain : Prop :=
  ∀ v : Word, isFinite v = true → fle (fabs v) rgbLimit = true → flt cGammaThr v = true →
    powOk (fdiv (fadd v cGammaA) cGammaD) = true

/-- R135: every legal sample triple gives channels in [−1.1335, 2.1555], far inside `RGB_LIMIT`. -/
def Obligations.LegalSamplesGiveBoundedRgb : Prop :=
  ∀ (t : Yuv) (depth : Nat), depth ∈ [8, 10, 12] → t.Ok depth →
    ∀ v ∈ [(yuv2rgbFn cdu depth t).r, (yuv2rgbFn cdu depth t).g, (yuv2rgbFn cdu depth t).b],
      isFinite v = true ∧ fle 0xBF911687 v = true ∧ fle v 0x4009F3B6 = true

/-- R151: the bit depth changes only the scaling. -/
def Obligations.BitDepthOnlyScales : Prop :=
  ∀ (c : Params) (t : Yuv), t.Ok 8 →
    yuv2rgbFn c 10 { y := t.y * 4, u := t.u * 4, v := t.v * 4 } = yuv2rgbFn c 8 t ∧
    yuv2rgbFn c 12 { y := t.y * 16, u := t.u * 16, v := t.v * 16 } = yuv2rgbFn c 8 t

/-- R134: with neutral chroma the three channels are equal, the normalised luma itself: products with a
0.0 entry and with a zero change nothing. -/
def Obligations.NeutralChromaGivesEqualChannels : Prop :=
  ∀ (t : Yuv) (depth : Nat), depth ∈ [8, 10, 12] → t.Ok depth →
    t.u = BitVec.ofNat 16 (128 * 2 ^ (depth - 8)) → t.v = BitVec.ofNat 16 (128 * 2 ^ (depth - 8)) →
    let yn := normalise t.y 16 219 (2 ^ (depth - 8))
    yuv2rgbFn cdu depth t = { r := yn, g := yn, b := yn }

/-- R144: channels in range give a CIELAB point inside `LAB_LIMIT`, under every `NUM` whose `CBRT` is
bounded as a cube root is. -/
def Obligations.LegalRgbGivesLegalLab : Prop :=
  ∀ (n : Numerics) (t : Rgb), CbrtBounded n → t.Ok → (rgb2labFn (cduWith n) t).Ok

/-- R145, R148: black is exactly (0, 0, 0) under every `NUM`; white is exactly (100, 0, 0) under every
`NUM` whose cube roots of 1 and of its upper neighbour (the two values the white divisions give) are 1, and
under `NUM_REF`. -/
def Obligations.BlackAndWhitePoints : Prop :=
  (∀ n : Numerics,
    rgb2labFn (cduWith n) { r := 0, g := 0, b := 0 } = { l := 0, a := 0, b := 0 } ∧
    (n.cbrt cOne = cOne → n.cbrt 0x3F800001 = cOne →
      rgb2labFn (cduWith n) { r := cOne, g := cOne, b := cOne } =
        { l := 0x42C80000, a := 0, b := 0 })) ∧
  rgb2labFn cduRef { r := cOne, g := cOne, b := cOne } = { l := 0x42C80000, a := 0, b := 0 }

/-- R150: `CVT s` is `YUV2RGB s` followed by `RGB2LAB s`, bit for bit. -/
def Obligations.CvtIsYuv2rgbThenRgb2lab : Prop :=
  ∀ (s t u : State) (side : Side) (depth : Nat),
    (s.bd, depth) ∈ [(0#2, 8), (1#2, 10), (2#2, 12)] → (s.bank side).yuv.Ok depth →
    exec (.yuv2rgb side) s = .next t → exec (.rgb2lab side) t = .next u →
    exec (.cvt side) s = .next u

/-- R202: the 13 results of `PIXEL` are those of `CVT 1`, `CVT 2` and `DE` in sequence, bit for bit, where
the operand checks of `DE` pass (they do under a `CBRT` bounded as `LegalRgbGivesLegalLab` says). -/
def Obligations.PixelIsCvtCvtDe : Prop :=
  ∀ (s t u v : State) (depth : Nat),
    (s.bd, depth) ∈ [(0#2, 8), (1#2, 10), (2#2, 12)] → s.weights.Ok →
    s.side1.yuv.Ok depth → s.side2.yuv.Ok depth →
    exec (.cvt .one) s = .next t → exec (.cvt .two) t = .next u →
    u.side1.lab.Ok → u.side2.lab.Ok → exec .de u = .next v →
    exec .pixel s = .next v

/-- R186 (`P_NONNEG`): the distance is never below 0, whatever `NUM`, the points and the weights. -/
def Obligations.DistanceIsNeverNegative : Prop :=
  ∀ (c : Params) (p q : Lab) (k : Weights), flt (de2000Fn c p q k) cZero = false

/-- R185: under a bounded `NUM` the distance of points and weights in range is finite. -/
def Obligations.DistanceIsFinite : Prop :=
  ∀ (n : Numerics) (p q : Lab) (k : Weights), Bounded n → p.Ok → q.Ok → k.Ok →
    isFinite (de2000Fn (cduWith n) p q k) = true

/-- R186 (`P_ID`): the distance of a point to itself is exactly +0, under a bounded `NUM` with
`SIN(+0) = +0` (log 18). -/
def Obligations.DistanceToItselfIsZero : Prop :=
  ∀ (n : Numerics) (p : Lab) (k : Weights), Bounded n → n.sin cZero = cZero → p.Ok → k.Ok →
    de2000Fn (cduWith n) p p k = cZero

/-- R187 (`P_SYM`): swapping the points changes no bit of the distance, under a bounded `NUM` whose `SIN`
is odd (log 18). -/
def Obligations.DistanceIsSymmetric : Prop :=
  ∀ (n : Numerics) (p q : Lab) (k : Weights), Bounded n → SinOdd n → p.Ok → q.Ok → k.Ok →
    de2000Fn (cduWith n) p q k = de2000Fn (cduWith n) q p k

/-- R13: the reference `CBRT` is the binary32 nearest the real cube root of a positive operand. In cubes:
another value `c` is reached only past the point half way to it. -/
def Obligations.ReferenceCubeRootIsNearest : Prop :=
  ∀ x : Word, isFinite x = true → flt cZero x = true →
    isFinite (Ref.cbrt x) = true ∧ fsign (Ref.cbrt x) = false ∧
    ∀ c, isFinite c = true → fsign c = false →
      (funits (Ref.cbrt x) < funits c →
        8 * (funits x * 2 ^ 298) ≤ (funits (Ref.cbrt x) + funits c) ^ 3) ∧
      (funits c < funits (Ref.cbrt x) →
        (funits (Ref.cbrt x) + funits c) ^ 3 ≤ 8 * (funits x * 2 ^ 298))
end

