-- ==== Sys2Proof/Laws/Float.lean ====
section
/-! SUPPORT. The small laws of the binary32 operations: patterns and their fields, the rounding's
monotonicity and its exactness on representable values, and what a range proof needs of them. -/

namespace Sys2Proof.Machine

/-! ### Patterns -/

theorem fmag_lt (w : Word) : fmag w < 2 ^ 31 := Nat.mod_lt _ (by decide)

theorem infMag_lt : infMag < 2 ^ 31 := by decide

theorem toNat_packSign (s : Bool) {m : Nat} (h : m < 2 ^ 31) :
    (packSign s m).toNat = if s then 2 ^ 31 + m else m := by
  simp only [packSign, BitVec.toNat_ofNat]
  split <;> omega

@[simp] theorem fmag_packSign (s : Bool) {m : Nat} (h : m < 2 ^ 31) : fmag (packSign s m) = m := by
  rw [fmag, toNat_packSign s h]
  split <;> omega

theorem fsign_eq (w : Word) : fsign w = decide (2 ^ 31 ≤ w.toNat) := by
  rw [fsign, BitVec.getLsbD, Nat.testBit_eq_decide_div_mod_eq]
  have := w.isLt
  congr 1
  simp only [eq_iff_iff]
  omega

@[simp] theorem fsign_packSign (s : Bool) {m : Nat} (h : m < 2 ^ 31) : fsign (packSign s m) = s := by
  rw [fsign_eq, toNat_packSign s h]
  cases s
  · simpa using h
  · simp

/-- A pattern is its sign and its magnitude. -/
theorem packSign_fsign_fmag (w : Word) : packSign (fsign w) (fmag w) = w := by
  apply BitVec.eq_of_toNat_eq
  rw [toNat_packSign _ (fmag_lt w), fsign_eq]
  have := w.isLt
  simp only [fmag, decide_eq_true_eq]
  split <;> omega

/-- Two patterns with the same sign and magnitude are the same. -/
theorem eq_of_sign_of_mag {a b : Word} (hs : fsign a = fsign b) (hm : fmag a = fmag b) : a = b := by
  rw [← packSign_fsign_fmag a, ← packSign_fsign_fmag b, hs, hm]

@[simp] theorem fmag_fneg (w : Word) : fmag (fneg w) = fmag w := fmag_packSign _ (fmag_lt w)

@[simp] theorem fsign_fneg (w : Word) : fsign (fneg w) = !fsign w := fsign_packSign _ (fmag_lt w)

@[simp] theorem fmag_fabs (w : Word) : fmag (fabs w) = fmag w := fmag_packSign _ (fmag_lt w)

@[simp] theorem fsign_fabs (w : Word) : fsign (fabs w) = false := fsign_packSign _ (fmag_lt w)

@[simp] theorem fneg_fneg (w : Word) : fneg (fneg w) = w :=
  eq_of_sign_of_mag (by simp) (by simp)

/-! ### Values -/

/-- The value, in units of 2^-149, of a magnitude pattern. -/
def magUnits (m : Nat) : Nat :=
  (if m / 2 ^ 23 = 0 then m else 2 ^ 23 + m % 2 ^ 23) * 2 ^ (m / 2 ^ 23 - 1)

theorem fexp_eq (w : Word) : fexp w = fmag w / 2 ^ 23 := by
  unfold fexp fmag; omega

theorem ffrac_eq (w : Word) : ffrac w = fmag w % 2 ^ 23 := by
  unfold ffrac fmag; omega

theorem funits_eq (w : Word) : funits w = magUnits (fmag w) := by
  unfold funits fsig magUnits
  rw [fexp_eq, ffrac_eq]
  split
  · next h => rw [Nat.mod_eq_of_lt]; omega
  · rfl

@[simp] theorem funits_fneg (w : Word) : funits (fneg w) = funits w := by
  rw [funits_eq, funits_eq, fmag_fneg]

@[simp] theorem isNaN_fneg (w : Word) : isNaN (fneg w) = isNaN w := by simp [isNaN]

@[simp] theorem isInf_fneg (w : Word) : isInf (fneg w) = isInf w := by simp [isInf]

@[simp] theorem isFinite_fneg (w : Word) : isFinite (fneg w) = isFinite w := by simp [isFinite]

@[simp] theorem fvalue_fneg (w : Word) : fvalue (fneg w) = -fvalue w := by
  unfold fvalue
  cases h : fsign w <;> simp [h]

@[simp] theorem fkey_fneg (w : Word) : fkey (fneg w) = -fkey w := by
  unfold fkey
  cases h : fsign w <;> simp [h]

theorem not_nan_of_finite {w : Word} (h : isFinite w = true) : isNaN w = false := by
  simp only [isFinite, isNaN, decide_eq_true_eq, decide_eq_false_iff_not] at *; omega

theorem not_inf_of_finite {w : Word} (h : isFinite w = true) : isInf w = false := by
  simp only [isFinite, isInf, decide_eq_true_eq, beq_eq_false_iff_ne] at *; omega

/-- A NaN result is a NaN, whatever its free bits. -/
@[simp] theorem isNaN_nanOf (op : Arith) (a b : Word) : isNaN (nanOf op a b) = true := by
  have h : infMag + 2 ^ 22 + (Config.nanBits op a b).toNat % 2 ^ 22 < 2 ^ 31 := by
    simp only [infMag]; omega
  simp only [isNaN, nanOf, fmag_packSign _ h, decide_eq_true_eq]
  omega

/-! ### Rounding -/

/-- What rounding to an integer is: `k` (above 0) is reached once `n / d` is beyond `k - 1/2`, and at
`k - 1/2` itself when `k` is even. -/
theorem le_rneDiv_iff {n d k : Nat} (hd : 0 < d) (hk : 0 < k) :
    k ≤ rneDiv n d ↔ (2 * k - 1) * d < 2 * n ∨ ((2 * k - 1) * d = 2 * n ∧ k % 2 = 0) := by
  obtain ⟨j, rfl⟩ : ∃ j, k = j + 1 := ⟨k - 1, by omega⟩
  have hj : (2 * (j + 1) - 1) * d = 2 * (d * j) + d := by
    rw [show 2 * (j + 1) - 1 = 2 * j + 1 by omega]; ring
  rw [hj]
  unfold rneDiv
  have hr : n % d < d := Nat.mod_lt _ hd
  have hn : d * (n / d) + n % d = n := Nat.div_add_mod n d
  generalize n / d = q at *
  generalize n % d = r at *
  subst hn
  rcases Nat.lt_trichotomy j q with h | h | h
  · have hm : d * (j + 1) ≤ d * q := Nat.mul_le_mul_left d h
    rw [Nat.mul_add] at hm
    have : 2 * (d * j) + d < 2 * (d * q + r) := by omega
    simp only [this, true_or, iff_true]
    split
    · omega
    · split <;> omega
  · subst h
    split
    · omega
    · split <;> omega
  · have hm : d * (q + 1) ≤ d * j := Nat.mul_le_mul_left d h
    rw [Nat.mul_add] at hm
    split
    · omega
    · split <;> omega

/-- Rounding to an integer is monotone in the quotient. -/
theorem rneDiv_mono {n₁ d₁ n₂ d₂ : Nat} (h₁ : 0 < d₁) (h₂ : 0 < d₂) (h : n₁ * d₂ ≤ n₂ * d₁) :
    rneDiv n₁ d₁ ≤ rneDiv n₂ d₂ := by
  rcases Nat.eq_zero_or_pos (rneDiv n₁ d₁) with h0 | h0
  · omega
  · generalize hk : rneDiv n₁ d₁ = k at *
    have hle := (le_rneDiv_iff (n := n₁) h₁ h0).1 hk.ge
    rw [le_rneDiv_iff h₂ h0]
    generalize 2 * k - 1 = c at *
    have e₂ : c * d₂ * d₁ = c * d₁ * d₂ := by ring
    rcases hle with hlt | ⟨heq, hev⟩
    · left
      have : c * d₂ * d₁ < 2 * n₂ * d₁ := by
        calc c * d₂ * d₁ = c * d₁ * d₂ := e₂
          _ < 2 * n₁ * d₂ := Nat.mul_lt_mul_of_pos_right hlt h₂
          _ = 2 * (n₁ * d₂) := by ring
          _ ≤ 2 * (n₂ * d₁) := Nat.mul_le_mul_left 2 h
          _ = 2 * n₂ * d₁ := by ring
      exact Nat.lt_of_mul_lt_mul_right this
    · have : c * d₂ * d₁ ≤ 2 * n₂ * d₁ := by
        calc c * d₂ * d₁ = c * d₁ * d₂ := e₂
          _ = 2 * n₁ * d₂ := by rw [heq]
          _ = 2 * (n₁ * d₂) := by ring
          _ ≤ 2 * (n₂ * d₁) := Nat.mul_le_mul_left 2 h
          _ = 2 * n₂ * d₁ := by ring
      have := Nat.le_of_mul_le_mul_right this h₁
      omega

/-- An integer rounds to itself. -/
theorem rneDiv_mul (k : Nat) {d : Nat} (hd : 0 < d) : rneDiv (k * d) d = k := by
  simp [rneDiv, Nat.mul_div_cancel _ hd, hd]

theorem rneDiv_le {n d k : Nat} (hd : 0 < d) (h : n ≤ k * d) : rneDiv n d ≤ k := by
  calc rneDiv n d ≤ rneDiv (k * d) d := rneDiv_mono hd hd (Nat.mul_le_mul_right d h)
    _ = k := rneDiv_mul k hd

theorem le_rneDiv {n d k : Nat} (hd : 0 < d) (h : k * d ≤ n) : k ≤ rneDiv n d := by
  calc k = rneDiv (k * d) d := (rneDiv_mul k hd).symm
    _ ≤ rneDiv n d := rneDiv_mono hd hd (Nat.mul_le_mul_right d h)

theorem roundUnits_le (n d : Nat) : roundUnits n d ≤ infMag := Nat.min_le_right _ _

theorem roundUnits_lt (n d : Nat) : roundUnits n d < 2 ^ 31 :=
  Nat.lt_of_le_of_lt (roundUnits_le n d) infMag_lt

/-- The exponent the rounding takes bounds the quotient from above. -/
theorem lt_pow_exponent (n : Nat) {d : Nat} (hd : 0 < d) :
    n < 2 ^ (Nat.log2 (n / d) - 23 + 24) * d := by
  have h : n / d < 2 ^ (Nat.log2 (n / d) + 1) := Nat.lt_log2_self
  have h' : n / d < 2 ^ (Nat.log2 (n / d) - 23 + 24) :=
    Nat.lt_of_lt_of_le h (Nat.pow_le_pow_right (by decide) (by omega))
  exact (Nat.div_lt_iff_lt_mul hd).1 h'

/-- An exponent above 0 bounds the quotient from below. -/
theorem pow_exponent_le (n : Nat) {d : Nat} (hd : 0 < d) (ht : 0 < Nat.log2 (n / d) - 23) :
    2 ^ (Nat.log2 (n / d) - 23 + 23) * d ≤ n := by
  have hne : n / d ≠ 0 := by rintro h; simp [h] at ht
  have h : 2 ^ Nat.log2 (n / d) ≤ n / d := Nat.log2_self_le hne
  have h' : 2 ^ (Nat.log2 (n / d) - 23 + 23) ≤ n / d := by
    rwa [show Nat.log2 (n / d) - 23 + 23 = Nat.log2 (n / d) by omega]
  exact (Nat.le_div_iff_mul_le hd).1 h'

/-- Rounding to a pattern is monotone in the quotient. -/
theorem roundUnits_mono {n₁ d₁ n₂ d₂ : Nat} (h₁ : 0 < d₁) (h₂ : 0 < d₂) (h : n₁ * d₂ ≤ n₂ * d₁) :
    roundUnits n₁ d₁ ≤ roundUnits n₂ d₂ := by
  have hq : n₁ / d₁ ≤ n₂ / d₂ := by
    rw [Nat.le_div_iff_mul_le h₂]
    have : n₁ / d₁ * d₂ * d₁ ≤ n₂ * d₁ :=
      calc n₁ / d₁ * d₂ * d₁ = n₁ / d₁ * d₁ * d₂ := by ring
        _ ≤ n₁ * d₂ := Nat.mul_le_mul_right _ (Nat.div_mul_le_self _ _)
        _ ≤ n₂ * d₁ := h
    exact Nat.le_of_mul_le_mul_right this h₁
  have ht : Nat.log2 (n₁ / d₁) - 23 ≤ Nat.log2 (n₂ / d₂) - 23 := by
    have : Nat.log2 (n₁ / d₁) ≤ Nat.log2 (n₂ / d₂) := by
      rw [Nat.log2_eq_log_two, Nat.log2_eq_log_two]
      exact Nat.log_mono_right hq
    omega
  have hup := lt_pow_exponent n₁ h₁
  have hlo := pow_exponent_le n₂ h₂
  unfold roundUnits
  simp only
  generalize Nat.log2 (n₁ / d₁) - 23 = t₁ at *
  generalize Nat.log2 (n₂ / d₂) - 23 = t₂ at *
  refine min_le_min_right _ ?_
  rcases Nat.eq_or_lt_of_le ht with rfl | hlt
  · refine Nat.add_le_add_left (rneDiv_mono (by positivity) (by positivity) ?_) _
    calc n₁ * (d₂ * 2 ^ t₁) = n₁ * d₂ * 2 ^ t₁ := by ring
      _ ≤ n₂ * d₁ * 2 ^ t₁ := Nat.mul_le_mul_right _ h
      _ = n₂ * (d₁ * 2 ^ t₁) := by ring
  · have e₁ : rneDiv n₁ (d₁ * 2 ^ t₁) ≤ 2 ^ 24 := by
      refine rneDiv_le (by positivity) (Nat.le_of_lt ?_)
      calc n₁ < 2 ^ (t₁ + 24) * d₁ := hup
        _ = 2 ^ 24 * (d₁ * 2 ^ t₁) := by rw [pow_add]; ring
    have e₂ : 2 ^ 23 ≤ rneDiv n₂ (d₂ * 2 ^ t₂) := by
      refine le_rneDiv (by positivity) ?_
      calc 2 ^ 23 * (d₂ * 2 ^ t₂) = 2 ^ (t₂ + 23) * d₂ := by rw [pow_add]; ring
        _ ≤ n₂ := hlo (by omega)
    have : (t₁ + 1) * 2 ^ 23 ≤ t₂ * 2 ^ 23 := Nat.mul_le_mul_right _ hlt
    omega

/-- A representable magnitude rounds to itself: the rounding of R12 is exact on binary32 values. -/
theorem roundUnits_magUnits {m d : Nat} (hd : 0 < d) (hm : m ≤ infMag) :
    roundUnits (magUnits m * d) d = m := by
  unfold roundUnits
  simp only [Nat.mul_div_cancel _ hd]
  unfold magUnits
  by_cases h0 : m / 2 ^ 23 = 0
  · have hlt : m < 2 ^ 23 := by omega
    have hl : Nat.log2 m - 23 = 0 := by
      rcases Nat.eq_zero_or_pos m with rfl | hp
      · decide
      · have := (Nat.log2_lt hp.ne').2 hlt
        omega
    simp only [h0, if_pos, Nat.zero_sub, pow_zero, Nat.mul_one, hl, Nat.zero_mul, Nat.zero_add]
    rw [rneDiv_mul m hd]
    exact Nat.min_eq_left hm
  · simp only [h0, if_false]
    have hs1 : 2 ^ 23 ≤ 2 ^ 23 + m % 2 ^ 23 := Nat.le_add_right _ _
    have hs2 : 2 ^ 23 + m % 2 ^ 23 < 2 ^ 24 := by omega
    have hdm : m / 2 ^ 23 * 2 ^ 23 + m % 2 ^ 23 = m := by omega
    generalize m % 2 ^ 23 = f at *
    generalize m / 2 ^ 23 = e at *
    obtain ⟨t, rfl⟩ : ∃ t, e = t + 1 := ⟨e - 1, by omega⟩
    have hl : Nat.log2 ((2 ^ 23 + f) * 2 ^ t) = 23 + t := by
      rw [Nat.log2_eq_iff (by positivity)]
      constructor
      · rw [pow_add]; exact Nat.mul_le_mul_right _ hs1
      · rw [show 23 + t + 1 = 24 + t by omega, pow_add]
        exact Nat.mul_lt_mul_of_pos_right hs2 (by positivity)
    simp only [Nat.add_sub_cancel, hl, Nat.add_sub_cancel_left]
    rw [show (2 ^ 23 + f) * 2 ^ t * d = (2 ^ 23 + f) * (d * 2 ^ t) by ring,
      rneDiv_mul _ (by positivity)]
    have : t * 2 ^ 23 + (2 ^ 23 + f) = m := by rw [← hdm]; ring
    rw [this]
    exact Nat.min_eq_left hm

/-- A quotient at most a representable magnitude rounds to at most its pattern. -/
theorem roundUnits_le_of_le {n d m : Nat} (hd : 0 < d) (hm : m ≤ infMag) (h : n ≤ magUnits m * d) :
    roundUnits n d ≤ m := by
  calc roundUnits n d ≤ roundUnits (magUnits m * d) d :=
        roundUnits_mono hd hd (Nat.mul_le_mul_right d h)
    _ = m := roundUnits_magUnits hd hm

/-- A quotient at least a representable magnitude rounds to at least its pattern. -/
theorem le_roundUnits_of_le {n d m : Nat} (hd : 0 < d) (hm : m ≤ infMag) (h : magUnits m * d ≤ n) :
    m ≤ roundUnits n d := by
  calc m = roundUnits (magUnits m * d) d := (roundUnits_magUnits hd hm).symm
    _ ≤ roundUnits n d := roundUnits_mono hd hd (Nat.mul_le_mul_right d h)

@[simp] theorem roundUnits_zero (d : Nat) : roundUnits 0 d = 0 := by
  rcases Nat.eq_zero_or_pos d with rfl | hd
  · simp [roundUnits, rneDiv]
  · simpa [magUnits] using roundUnits_magUnits (m := 0) hd (by decide)

/-- Larger patterns are larger values. -/
theorem magUnits_mono {m₁ m₂ : Nat} (h : m₁ ≤ m₂) (h₂ : m₂ ≤ infMag) : magUnits m₁ ≤ magUnits m₂ := by
  by_contra hc
  have := roundUnits_mono (n₁ := magUnits m₂ * 1) (n₂ := magUnits m₁ * 1) Nat.one_pos Nat.one_pos
    (by omega)
  rw [roundUnits_magUnits Nat.one_pos h₂, roundUnits_magUnits Nat.one_pos (by omega)] at this
  have : m₁ = m₂ := by omega
  subst this
  omega

/-! ### Operations on finite operands -/

theorem fadd_finite {a b : Word} (ha : isFinite a = true) (hb : isFinite b = true) :
    fadd a b = if fvalue a + fvalue b = 0 then packSign (fsign a && fsign b) 0
      else packSign (fvalue a + fvalue b < 0) (roundUnits (fvalue a + fvalue b).natAbs 1) := by
  simp [fadd, addAs, not_nan_of_finite ha, not_nan_of_finite hb, not_inf_of_finite ha,
    not_inf_of_finite hb]

theorem fsub_finite {a b : Word} (ha : isFinite a = true) (hb : isFinite b = true) :
    fsub a b = fadd a (fneg b) := by
  rw [fadd_finite ha (by simpa using hb)]
  simp [fsub, addAs, not_nan_of_finite ha, not_nan_of_finite hb, not_inf_of_finite ha,
    not_inf_of_finite hb]

theorem fmul_finite {a b : Word} (ha : isFinite a = true) (hb : isFinite b = true) :
    fmul a b = packSign (fsign a != fsign b) (roundUnits (funits a * funits b) (2 ^ 149)) := by
  simp [fmul, not_nan_of_finite ha, not_nan_of_finite hb, not_inf_of_finite ha,
    not_inf_of_finite hb]

theorem fdiv_finite {a b : Word} (ha : isFinite a = true) (hb : isFinite b = true)
    (h0 : fmag b ≠ 0) :
    fdiv a b = packSign (fsign a != fsign b) (roundUnits (funits a * 2 ^ 149) (funits b)) := by
  simp [fdiv, not_nan_of_finite ha, not_nan_of_finite hb, not_inf_of_finite ha,
    not_inf_of_finite hb, h0]

/-- Addition of finite operands commutes, bit for bit. -/
theorem fadd_comm_finite {a b : Word} (ha : isFinite a = true) (hb : isFinite b = true) :
    fadd a b = fadd b a := by
  rw [fadd_finite ha hb, fadd_finite hb ha, Int.add_comm, Bool.and_comm]

/-- Multiplication of finite operands commutes, bit for bit. -/
theorem fmul_comm_finite {a b : Word} (ha : isFinite a = true) (hb : isFinite b = true) :
    fmul a b = fmul b a := by
  rw [fmul_finite ha hb, fmul_finite hb ha, Nat.mul_comm]
  congr 1
  cases fsign a <;> cases fsign b <;> rfl

end Sys2Proof.Machine
end

