-- ==== Sys2Proof/Laws/State.lean ====
section
/-! SUPPORT. One lemma for each field under each update of the state, so that no later proof unfolds an
update. -/

namespace Sys2Proof.Machine

/-! ### Replacing a bank -/

@[simp] theorem State.setBank_ie (s : State) (side : Side) (b : Bank) :
    (s.setBank side b).ie = s.ie := by cases side <;> rfl
@[simp] theorem State.setBank_bd (s : State) (side : Side) (b : Bank) :
    (s.setBank side b).bd = s.bd := by cases side <;> rfl
@[simp] theorem State.setBank_status (s : State) (side : Side) (b : Bank) :
    (s.setBank side b).status = s.status := by cases side <;> rfl
@[simp] theorem State.setBank_weights (s : State) (side : Side) (b : Bank) :
    (s.setBank side b).weights = s.weights := by cases side <;> rfl
@[simp] theorem State.setBank_x (s : State) (side : Side) (b : Bank) :
    (s.setBank side b).x = s.x := by cases side <;> rfl
@[simp] theorem State.setBank_p (s : State) (side : Side) (b : Bank) :
    (s.setBank side b).p = s.p := by cases side <;> rfl
@[simp] theorem State.setBank_de (s : State) (side : Side) (b : Bank) :
    (s.setBank side b).de = s.de := by cases side <;> rfl
@[simp] theorem State.setBank_busy (s : State) (side : Side) (b : Bank) :
    (s.setBank side b).busy = s.busy := by cases side <;> rfl
@[simp] theorem State.setBank_pending (s : State) (side : Side) (b : Bank) :
    (s.setBank side b).pending = s.pending := by cases side <;> rfl
@[simp] theorem State.setBank_inReset (s : State) (side : Side) (b : Bank) :
    (s.setBank side b).inReset = s.inReset := by cases side <;> rfl
@[simp] theorem State.setBank_host (s : State) (side : Side) (b : Bank) :
    (s.setBank side b).host = s.host := by cases side <;> rfl
@[simp] theorem State.setBank_turns (s : State) (side : Side) (b : Bank) :
    (s.setBank side b).turns = s.turns := by cases side <;> rfl
@[simp] theorem State.setBank_reads (s : State) (side : Side) (b : Bank) :
    (s.setBank side b).reads = s.reads := by cases side <;> rfl
@[simp] theorem State.setBank_freeReads (s : State) (side : Side) (b : Bank) :
    (s.setBank side b).freeReads = s.freeReads := by cases side <;> rfl

@[simp] theorem State.setBank_side1 (s : State) (b : Bank) : (s.setBank .one b).side1 = b := rfl
@[simp] theorem State.setBank_side2 (s : State) (b : Bank) : (s.setBank .two b).side2 = b := rfl
@[simp] theorem State.setBank_two_side1 (s : State) (b : Bank) :
    (s.setBank .two b).side1 = s.side1 := rfl
@[simp] theorem State.setBank_one_side2 (s : State) (b : Bank) :
    (s.setBank .one b).side2 = s.side2 := rfl
@[simp] theorem State.bank_setBank (s : State) (side : Side) (b : Bank) :
    (s.setBank side b).bank side = b := by cases side <;> rfl
theorem State.bank_setBank_of_ne (s : State) {side other : Side} (h : side ≠ other) (b : Bank) :
    (s.setBank side b).bank other = s.bank other := by
  cases side <;> cases other <;> first | exact absurd rfl h | rfl

/-! ### Writing the RGB registers of a side -/

@[simp] theorem State.setRgb_ie (s : State) (side : Side) (t : Rgb) :
    (s.setRgb side t).ie = s.ie := by cases side <;> rfl
@[simp] theorem State.setRgb_bd (s : State) (side : Side) (t : Rgb) :
    (s.setRgb side t).bd = s.bd := by cases side <;> rfl
@[simp] theorem State.setRgb_status (s : State) (side : Side) (t : Rgb) :
    (s.setRgb side t).status = s.status := by cases side <;> rfl
@[simp] theorem State.setRgb_weights (s : State) (side : Side) (t : Rgb) :
    (s.setRgb side t).weights = s.weights := by cases side <;> rfl
@[simp] theorem State.setRgb_x (s : State) (side : Side) (t : Rgb) :
    (s.setRgb side t).x = s.x := by cases side <;> rfl
@[simp] theorem State.setRgb_p (s : State) (side : Side) (t : Rgb) :
    (s.setRgb side t).p = s.p := by cases side <;> rfl
@[simp] theorem State.setRgb_de (s : State) (side : Side) (t : Rgb) :
    (s.setRgb side t).de = s.de := by cases side <;> rfl
@[simp] theorem State.setRgb_busy (s : State) (side : Side) (t : Rgb) :
    (s.setRgb side t).busy = s.busy := by cases side <;> rfl
@[simp] theorem State.setRgb_pending (s : State) (side : Side) (t : Rgb) :
    (s.setRgb side t).pending = s.pending := by cases side <;> rfl
@[simp] theorem State.setRgb_inReset (s : State) (side : Side) (t : Rgb) :
    (s.setRgb side t).inReset = s.inReset := by cases side <;> rfl
@[simp] theorem State.setRgb_host (s : State) (side : Side) (t : Rgb) :
    (s.setRgb side t).host = s.host := by cases side <;> rfl
@[simp] theorem State.setRgb_turns (s : State) (side : Side) (t : Rgb) :
    (s.setRgb side t).turns = s.turns := by cases side <;> rfl
@[simp] theorem State.setRgb_reads (s : State) (side : Side) (t : Rgb) :
    (s.setRgb side t).reads = s.reads := by cases side <;> rfl
@[simp] theorem State.setRgb_freeReads (s : State) (side : Side) (t : Rgb) :
    (s.setRgb side t).freeReads = s.freeReads := by cases side <;> rfl

@[simp] theorem State.setRgb_bank_rgb (s : State) (side : Side) (t : Rgb) :
    ((s.setRgb side t).bank side).rgb = t := by cases side <;> rfl
@[simp] theorem State.setRgb_bank_lab (s : State) (side other : Side) (t : Rgb) :
    ((s.setRgb side t).bank other).lab = (s.bank other).lab := by
  cases side <;> cases other <;> rfl
@[simp] theorem State.setRgb_bank_yuv (s : State) (side other : Side) (t : Rgb) :
    ((s.setRgb side t).bank other).yuv = (s.bank other).yuv := by
  cases side <;> cases other <;> rfl
theorem State.setRgb_bank_rgb_of_ne (s : State) {side other : Side} (h : side ≠ other) (t : Rgb) :
    ((s.setRgb side t).bank other).rgb = (s.bank other).rgb := by
  cases side <;> cases other <;> first | exact absurd rfl h | rfl

/-! ### Writing the LAB registers of a side -/

@[simp] theorem State.setLab_ie (s : State) (side : Side) (t : Lab) :
    (s.setLab side t).ie = s.ie := by cases side <;> rfl
@[simp] theorem State.setLab_bd (s : State) (side : Side) (t : Lab) :
    (s.setLab side t).bd = s.bd := by cases side <;> rfl
@[simp] theorem State.setLab_status (s : State) (side : Side) (t : Lab) :
    (s.setLab side t).status = s.status := by cases side <;> rfl
@[simp] theorem State.setLab_weights (s : State) (side : Side) (t : Lab) :
    (s.setLab side t).weights = s.weights := by cases side <;> rfl
@[simp] theorem State.setLab_x (s : State) (side : Side) (t : Lab) :
    (s.setLab side t).x = s.x := by cases side <;> rfl
@[simp] theorem State.setLab_p (s : State) (side : Side) (t : Lab) :
    (s.setLab side t).p = s.p := by cases side <;> rfl
@[simp] theorem State.setLab_de (s : State) (side : Side) (t : Lab) :
    (s.setLab side t).de = s.de := by cases side <;> rfl
@[simp] theorem State.setLab_busy (s : State) (side : Side) (t : Lab) :
    (s.setLab side t).busy = s.busy := by cases side <;> rfl
@[simp] theorem State.setLab_pending (s : State) (side : Side) (t : Lab) :
    (s.setLab side t).pending = s.pending := by cases side <;> rfl
@[simp] theorem State.setLab_inReset (s : State) (side : Side) (t : Lab) :
    (s.setLab side t).inReset = s.inReset := by cases side <;> rfl
@[simp] theorem State.setLab_host (s : State) (side : Side) (t : Lab) :
    (s.setLab side t).host = s.host := by cases side <;> rfl
@[simp] theorem State.setLab_turns (s : State) (side : Side) (t : Lab) :
    (s.setLab side t).turns = s.turns := by cases side <;> rfl
@[simp] theorem State.setLab_reads (s : State) (side : Side) (t : Lab) :
    (s.setLab side t).reads = s.reads := by cases side <;> rfl
@[simp] theorem State.setLab_freeReads (s : State) (side : Side) (t : Lab) :
    (s.setLab side t).freeReads = s.freeReads := by cases side <;> rfl

@[simp] theorem State.setLab_bank_lab (s : State) (side : Side) (t : Lab) :
    ((s.setLab side t).bank side).lab = t := by cases side <;> rfl
@[simp] theorem State.setLab_bank_rgb (s : State) (side other : Side) (t : Lab) :
    ((s.setLab side t).bank other).rgb = (s.bank other).rgb := by
  cases side <;> cases other <;> rfl
@[simp] theorem State.setLab_bank_yuv (s : State) (side other : Side) (t : Lab) :
    ((s.setLab side t).bank other).yuv = (s.bank other).yuv := by
  cases side <;> cases other <;> rfl
theorem State.setLab_bank_lab_of_ne (s : State) {side other : Side} (h : side ≠ other) (t : Lab) :
    ((s.setLab side t).bank other).lab = (s.bank other).lab := by
  cases side <;> cases other <;> first | exact absurd rfl h | rfl

/-! ### Writing P and DE -/

@[simp] theorem State.setP_ie (s : State) (w : Word) :
    (s.setP w).ie = s.ie := rfl
@[simp] theorem State.setP_bd (s : State) (w : Word) :
    (s.setP w).bd = s.bd := rfl
@[simp] theorem State.setP_status (s : State) (w : Word) :
    (s.setP w).status = s.status := rfl
@[simp] theorem State.setP_weights (s : State) (w : Word) :
    (s.setP w).weights = s.weights := rfl
@[simp] theorem State.setP_side1 (s : State) (w : Word) :
    (s.setP w).side1 = s.side1 := rfl
@[simp] theorem State.setP_side2 (s : State) (w : Word) :
    (s.setP w).side2 = s.side2 := rfl
@[simp] theorem State.setP_x (s : State) (w : Word) :
    (s.setP w).x = s.x := rfl
@[simp] theorem State.setP_p (s : State) (w : Word) :
    (s.setP w).p = w := rfl
@[simp] theorem State.setP_de (s : State) (w : Word) :
    (s.setP w).de = s.de := rfl
@[simp] theorem State.setP_busy (s : State) (w : Word) :
    (s.setP w).busy = s.busy := rfl
@[simp] theorem State.setP_pending (s : State) (w : Word) :
    (s.setP w).pending = s.pending := rfl
@[simp] theorem State.setP_inReset (s : State) (w : Word) :
    (s.setP w).inReset = s.inReset := rfl
@[simp] theorem State.setP_host (s : State) (w : Word) :
    (s.setP w).host = s.host := rfl
@[simp] theorem State.setP_turns (s : State) (w : Word) :
    (s.setP w).turns = s.turns := rfl
@[simp] theorem State.setP_reads (s : State) (w : Word) :
    (s.setP w).reads = s.reads := rfl
@[simp] theorem State.setP_freeReads (s : State) (w : Word) :
    (s.setP w).freeReads = s.freeReads := rfl

@[simp] theorem State.setDe_ie (s : State) (w : Word) :
    (s.setDe w).ie = s.ie := rfl
@[simp] theorem State.setDe_bd (s : State) (w : Word) :
    (s.setDe w).bd = s.bd := rfl
@[simp] theorem State.setDe_status (s : State) (w : Word) :
    (s.setDe w).status = s.status := rfl
@[simp] theorem State.setDe_weights (s : State) (w : Word) :
    (s.setDe w).weights = s.weights := rfl
@[simp] theorem State.setDe_side1 (s : State) (w : Word) :
    (s.setDe w).side1 = s.side1 := rfl
@[simp] theorem State.setDe_side2 (s : State) (w : Word) :
    (s.setDe w).side2 = s.side2 := rfl
@[simp] theorem State.setDe_x (s : State) (w : Word) :
    (s.setDe w).x = s.x := rfl
@[simp] theorem State.setDe_p (s : State) (w : Word) :
    (s.setDe w).p = s.p := rfl
@[simp] theorem State.setDe_de (s : State) (w : Word) :
    (s.setDe w).de = w := rfl
@[simp] theorem State.setDe_busy (s : State) (w : Word) :
    (s.setDe w).busy = s.busy := rfl
@[simp] theorem State.setDe_pending (s : State) (w : Word) :
    (s.setDe w).pending = s.pending := rfl
@[simp] theorem State.setDe_inReset (s : State) (w : Word) :
    (s.setDe w).inReset = s.inReset := rfl
@[simp] theorem State.setDe_host (s : State) (w : Word) :
    (s.setDe w).host = s.host := rfl
@[simp] theorem State.setDe_turns (s : State) (w : Word) :
    (s.setDe w).turns = s.turns := rfl
@[simp] theorem State.setDe_reads (s : State) (w : Word) :
    (s.setDe w).reads = s.reads := rfl
@[simp] theorem State.setDe_freeReads (s : State) (w : Word) :
    (s.setDe w).freeReads = s.freeReads := rfl

/-! ### Completing -/

@[simp] theorem State.finish_ie (s : State) :
    (s.finish).ie = s.ie := rfl
@[simp] theorem State.finish_bd (s : State) :
    (s.finish).bd = s.bd := rfl
@[simp] theorem State.finish_status (s : State) :
    (s.finish).status = { s.status with done := true } := rfl
@[simp] theorem State.finish_weights (s : State) :
    (s.finish).weights = s.weights := rfl
@[simp] theorem State.finish_side1 (s : State) :
    (s.finish).side1 = s.side1 := rfl
@[simp] theorem State.finish_side2 (s : State) :
    (s.finish).side2 = s.side2 := rfl
@[simp] theorem State.finish_x (s : State) :
    (s.finish).x = s.x := rfl
@[simp] theorem State.finish_p (s : State) :
    (s.finish).p = s.p := rfl
@[simp] theorem State.finish_de (s : State) :
    (s.finish).de = s.de := rfl
@[simp] theorem State.finish_busy (s : State) :
    (s.finish).busy = false := rfl
@[simp] theorem State.finish_pending (s : State) :
    (s.finish).pending = s.pending := rfl
@[simp] theorem State.finish_inReset (s : State) :
    (s.finish).inReset = s.inReset := rfl
@[simp] theorem State.finish_host (s : State) :
    (s.finish).host = s.host := rfl
@[simp] theorem State.finish_turns (s : State) :
    (s.finish).turns = s.turns := rfl
@[simp] theorem State.finish_reads (s : State) :
    (s.finish).reads = s.reads := rfl
@[simp] theorem State.finish_freeReads (s : State) :
    (s.finish).freeReads = s.freeReads := rfl

@[simp] theorem State.fail_ie (s : State) (e : CmdError) :
    (s.fail e).ie = s.ie := rfl
@[simp] theorem State.fail_bd (s : State) (e : CmdError) :
    (s.fail e).bd = s.bd := rfl
@[simp] theorem State.fail_status (s : State) (e : CmdError) :
    (s.fail e).status = s.status.latch e.code.code (BitVec.ofNat 8 e.info.index) := rfl
@[simp] theorem State.fail_weights (s : State) (e : CmdError) :
    (s.fail e).weights = s.weights := rfl
@[simp] theorem State.fail_side1 (s : State) (e : CmdError) :
    (s.fail e).side1 = s.side1 := rfl
@[simp] theorem State.fail_side2 (s : State) (e : CmdError) :
    (s.fail e).side2 = s.side2 := rfl
@[simp] theorem State.fail_x (s : State) (e : CmdError) :
    (s.fail e).x = s.x := rfl
@[simp] theorem State.fail_p (s : State) (e : CmdError) :
    (s.fail e).p = s.p := rfl
@[simp] theorem State.fail_de (s : State) (e : CmdError) :
    (s.fail e).de = s.de := rfl
@[simp] theorem State.fail_busy (s : State) (e : CmdError) :
    (s.fail e).busy = false := rfl
@[simp] theorem State.fail_pending (s : State) (e : CmdError) :
    (s.fail e).pending = s.pending := rfl
@[simp] theorem State.fail_inReset (s : State) (e : CmdError) :
    (s.fail e).inReset = s.inReset := rfl
@[simp] theorem State.fail_host (s : State) (e : CmdError) :
    (s.fail e).host = s.host := rfl
@[simp] theorem State.fail_turns (s : State) (e : CmdError) :
    (s.fail e).turns = s.turns := rfl
@[simp] theorem State.fail_reads (s : State) (e : CmdError) :
    (s.fail e).reads = s.reads := rfl
@[simp] theorem State.fail_freeReads (s : State) (e : CmdError) :
    (s.fail e).freeReads = s.freeReads := rfl

/-! ### Handing a word to the host -/

@[simp] theorem State.returned_ie (s : State) (w : Word) :
    (s.returned w).ie = s.ie := rfl
@[simp] theorem State.returned_bd (s : State) (w : Word) :
    (s.returned w).bd = s.bd := rfl
@[simp] theorem State.returned_status (s : State) (w : Word) :
    (s.returned w).status = s.status := rfl
@[simp] theorem State.returned_weights (s : State) (w : Word) :
    (s.returned w).weights = s.weights := rfl
@[simp] theorem State.returned_side1 (s : State) (w : Word) :
    (s.returned w).side1 = s.side1 := rfl
@[simp] theorem State.returned_side2 (s : State) (w : Word) :
    (s.returned w).side2 = s.side2 := rfl
@[simp] theorem State.returned_x (s : State) (w : Word) :
    (s.returned w).x = s.x := rfl
@[simp] theorem State.returned_p (s : State) (w : Word) :
    (s.returned w).p = s.p := rfl
@[simp] theorem State.returned_de (s : State) (w : Word) :
    (s.returned w).de = s.de := rfl
@[simp] theorem State.returned_busy (s : State) (w : Word) :
    (s.returned w).busy = s.busy := rfl
@[simp] theorem State.returned_pending (s : State) (w : Word) :
    (s.returned w).pending = s.pending := rfl
@[simp] theorem State.returned_inReset (s : State) (w : Word) :
    (s.returned w).inReset = s.inReset := rfl
@[simp] theorem State.returned_host (s : State) (w : Word) :
    (s.returned w).host = s.host := rfl
@[simp] theorem State.returned_turns (s : State) (w : Word) :
    (s.returned w).turns = s.turns := rfl
@[simp] theorem State.returned_reads (s : State) (w : Word) :
    (s.returned w).reads = w :: s.reads := rfl
@[simp] theorem State.returned_freeReads (s : State) (w : Word) :
    (s.returned w).freeReads = s.freeReads := rfl

/-! ### Placing a command -/

@[simp] theorem State.withFetchWord_ie (s : State) (nbits w : Nat) :
    (s.withFetchWord nbits w).ie = s.ie := rfl
@[simp] theorem State.withFetchWord_bd (s : State) (nbits w : Nat) :
    (s.withFetchWord nbits w).bd = s.bd := rfl
@[simp] theorem State.withFetchWord_status (s : State) (nbits w : Nat) :
    (s.withFetchWord nbits w).status = s.status := rfl
@[simp] theorem State.withFetchWord_weights (s : State) (nbits w : Nat) :
    (s.withFetchWord nbits w).weights = s.weights := rfl
@[simp] theorem State.withFetchWord_side1 (s : State) (nbits w : Nat) :
    (s.withFetchWord nbits w).side1 = s.side1 := rfl
@[simp] theorem State.withFetchWord_side2 (s : State) (nbits w : Nat) :
    (s.withFetchWord nbits w).side2 = s.side2 := rfl
@[simp] theorem State.withFetchWord_x (s : State) (nbits w : Nat) :
    (s.withFetchWord nbits w).x = s.x := rfl
@[simp] theorem State.withFetchWord_p (s : State) (nbits w : Nat) :
    (s.withFetchWord nbits w).p = s.p := rfl
@[simp] theorem State.withFetchWord_de (s : State) (nbits w : Nat) :
    (s.withFetchWord nbits w).de = s.de := rfl
@[simp] theorem State.withFetchWord_busy (s : State) (nbits w : Nat) :
    (s.withFetchWord nbits w).busy = true := rfl
@[simp] theorem State.withFetchWord_pending (s : State) (nbits w : Nat) :
    (s.withFetchWord nbits w).pending = tableWord nbits w := rfl
@[simp] theorem State.withFetchWord_inReset (s : State) (nbits w : Nat) :
    (s.withFetchWord nbits w).inReset = false := rfl
@[simp] theorem State.withFetchWord_host (s : State) (nbits w : Nat) :
    (s.withFetchWord nbits w).host = s.host := rfl
@[simp] theorem State.withFetchWord_turns (s : State) (nbits w : Nat) :
    (s.withFetchWord nbits w).turns = if s.turns.isEmpty then [] else .unit :: s.turns := rfl
@[simp] theorem State.withFetchWord_reads (s : State) (nbits w : Nat) :
    (s.withFetchWord nbits w).reads = s.reads := rfl
@[simp] theorem State.withFetchWord_freeReads (s : State) (nbits w : Nat) :
    (s.withFetchWord nbits w).freeReads = s.freeReads := rfl

/-! ### The bank as a field -/

@[simp] theorem State.setP_bank (s : State) (w : Word) (side : Side) :
    (s.setP w).bank side = s.bank side := by cases side <;> rfl
@[simp] theorem State.setDe_bank (s : State) (w : Word) (side : Side) :
    (s.setDe w).bank side = s.bank side := by cases side <;> rfl
@[simp] theorem State.finish_bank (s : State) (side : Side) :
    (s.finish).bank side = s.bank side := by cases side <;> rfl
@[simp] theorem State.fail_bank (s : State) (e : CmdError) (side : Side) :
    (s.fail e).bank side = s.bank side := by cases side <;> rfl
@[simp] theorem State.returned_bank (s : State) (w : Word) (side : Side) :
    (s.returned w).bank side = s.bank side := by cases side <;> rfl

end Sys2Proof.Machine
end

