-- ==== Sys2Proof/Laws/Ops.lean ====
section
/-! SUPPORT. What each shared operation can do, said once: the register map, the host's accesses, the
checks and the completion of a command. -/

namespace Sys2Proof.Machine

/-! ### The register map -/

@[simp] theorem Reg.ofIndex_index (r : Reg) : Reg.ofIndex r.index = some r := by
  cases r with
  | yuv side c => cases side <;> cases c <;> rfl
  | rgb side c => cases side <;> cases c <;> rfl
  | lab side c => cases side <;> cases c <;> rfl
  | _ => rfl

theorem Reg.index_lt (r : Reg) : r.index < 35 := by
  cases r with
  | yuv side c => cases side <;> cases c <;> decide
  | rgb side c => cases side <;> cases c <;> decide
  | lab side c => cases side <;> cases c <;> decide
  | _ => decide

theorem Reg.index_injective {r₁ r₂ : Reg} (h : r₁.index = r₂.index) : r₁ = r₂ := by
  have := congrArg Reg.ofIndex h
  simpa using this

theorem Reg.index_of_ofIndex {i : Nat} {r : Reg} (h : Reg.ofIndex i = some r) : r.index = i := by
  unfold Reg.ofIndex at h
  split at h <;> first | (cases h; rfl) | exact absurd h (by simp)

theorem Reg.toNat_offset (r : Reg) : r.offset.toNat = 4 * r.index := by
  have := r.index_lt
  simp only [Reg.offset, BitVec.toNat_ofNat]
  omega

theorem Reg.offset_div (r : Reg) : r.offset.toNat / 4 = r.index := by
  rw [r.toNat_offset]; omega

theorem Reg.offset_mod (r : Reg) : r.offset.toNat % 4 = 0 := by
  rw [r.toNat_offset]; omega

/-- The window at a register's index is the register. -/
@[simp] theorem State.wordAt_index (s : State) (r : Reg) : s.wordAt r.index = s.readReg r := by
  simp [State.wordAt]

@[simp] theorem State.writeWord_index (s : State) (r : Reg) (w : Word) :
    s.writeWord r.index w = s.writeReg r w := by
  simp [State.writeWord]

/-- A triple's register after a write of one of its registers. -/
theorem Yuv.get_set (t : Yuv) (c c' : Chan) (w : BitVec 16) :
    (t.set c w).get c' = if c = c' then w else t.get c' := by
  cases c <;> cases c' <;> rfl

theorem Rgb.get_set (t : Rgb) (c c' : Chan) (w : Word) :
    (t.set c w).get c' = if c = c' then w else t.get c' := by
  cases c <;> cases c' <;> rfl

theorem Lab.get_set (t : Lab) (c c' : Chan) (w : Word) :
    (t.set c w).get c' = if c = c' then w else t.get c' := by
  cases c <;> cases c' <;> rfl

/-! ### The host's accesses -/

theorem State.acceptCommand_busy {s : State} (h : s.busy = true) (w : Word) :
    s.acceptCommand w = { s with status := { s.status with ovr := true } } := by
  simp [State.acceptCommand, h]

theorem State.acceptCommand_idle {s : State} (h : s.busy = false) (w : Word) :
    s.acceptCommand w = { s with busy := true, pending := w } := by
  simp [State.acceptCommand, h]

theorem State.writeOperand_busy {s : State} (h : s.busy = true) (r : Reg) (w : Word) :
    s.writeOperand r w = { s with status := { s.status with ovr := true } } := by
  simp [State.writeOperand, h]

theorem State.writeOperand_idle {s : State} (h : s.busy = false) (r : Reg) (w : Word) :
    s.writeOperand r w = s.storeReg r w := by
  simp [State.writeOperand, h]

/-- All that a host write to a register can do: nothing, enable or disable the interrupt, clear STATUS
bits, set OVR while busy, accept a command while idle, or store an operand while idle. -/
theorem State.writeReg_cases (s : State) (r : Reg) (w : Word) :
    s.writeReg r w = s ∨
    (r = .ctrl ∧ s.writeReg r w = { s with ie := w.getLsbD 0 }) ∨
    (r = .status ∧ s.writeReg r w = { s with status := s.status.clear w }) ∨
    (s.busy = true ∧ s.writeReg r w = { s with status := { s.status with ovr := true } }) ∨
    (r = .cmd ∧ s.busy = false ∧ s.writeReg r w = { s with busy := true, pending := w }) ∨
    (s.busy = false ∧ s.writeReg r w = s.storeReg r w) := by
  cases hb : s.busy <;> cases r <;>
    simp [State.writeReg, State.writeOperand, State.acceptCommand, hb]

/-- Storing an operand leaves everything but the operand registers. -/
theorem State.storeReg_frame (s : State) (r : Reg) (w : Word) :
    (s.storeReg r w).ie = s.ie ∧ (s.storeReg r w).status = s.status ∧ (s.storeReg r w).p = s.p ∧
    (s.storeReg r w).de = s.de ∧ (s.storeReg r w).busy = s.busy ∧
    (s.storeReg r w).pending = s.pending ∧ (s.storeReg r w).inReset = s.inReset ∧
    (s.storeReg r w).host = s.host ∧ (s.storeReg r w).turns = s.turns ∧
    (s.storeReg r w).reads = s.reads ∧ (s.storeReg r w).freeReads = s.freeReads := by
  cases r <;> simp [State.storeReg]

/-- All that a read can do: hand over the word, or during reset a free one, and nothing else. -/
theorem State.busAccess_read_next {s t : State} {off : BitVec 12} {width : Width}
    (h : s.busAccess (.read off width) = .next t) :
    (s.inReset = false ∧ t = s.returned (s.wordAt (off.toNat / 4))) ∨
    (s.inReset = true ∧ t = { s with
      freeReads := s.freeReads + 1, reads := Config.readInReset s.freeReads :: s.reads }) := by
  unfold State.busAccess at h
  split at h
  · cases hr : s.inReset
    · refine .inl ⟨rfl, ?_⟩
      simp only [State.busRead, hr] at h
      exact (Host.Outcome.next.inj h).symm
    · refine .inr ⟨rfl, ?_⟩
      simp only [State.busRead, hr] at h
      exact (Host.Outcome.next.inj h).symm
  · cases h

/-- All that a write can do: what R65 says, or nothing during reset. -/
theorem State.busAccess_write_next {s t : State} {off : BitVec 12} {width : Width} {w : Word}
    (h : s.busAccess (.write off width w) = .next t) :
    t = if s.inReset then s else s.writeWord (off.toNat / 4) w := by
  unfold State.busAccess at h
  split at h
  · cases h; rfl
  · cases h

/-- A refused access is the bus error of that access. -/
theorem State.busAccess_refused {s : State} {a : Access} (h : a.accepted = false) :
    s.busAccess a = .fault (.busError a) := by
  simp [State.busAccess, h]

/-! ### Checks and completion -/

@[simp] theorem firstFailed_nil : firstFailed [] = none := rfl

theorem firstFailed_cons_ok {c : Check} (h : c.ok = true) (cs : List Check) :
    firstFailed (c :: cs) = firstFailed cs := by simp [firstFailed, h]

theorem firstFailed_cons_failed {c : Check} (h : c.ok = false) (cs : List Check) :
    firstFailed (c :: cs) = some c.error := by simp [firstFailed, h]

theorem firstFailed_append (cs ds : List Check) :
    firstFailed (cs ++ ds) = (firstFailed cs).or (firstFailed ds) := by
  induction cs with
  | nil => simp
  | cons c cs ih =>
    cases h : c.ok
    · simp [firstFailed, h]
    · simpa [firstFailed, h] using ih

/-- No check fails exactly when every check passes. -/
theorem firstFailed_eq_none_iff (cs : List Check) :
    firstFailed cs = none ↔ ∀ c ∈ cs, c.ok = true := by
  induction cs with
  | nil => simp
  | cons c cs ih => cases h : c.ok <;> simp [firstFailed, h, ih]

/-- The error reported is that of a check that failed. -/
theorem firstFailed_mem {cs : List Check} {e : CmdError} (h : firstFailed cs = some e) :
    ∃ c ∈ cs, c.ok = false ∧ c.error = e := by
  induction cs with
  | nil => cases h
  | cons c cs ih =>
    cases hc : c.ok
    · rw [firstFailed_cons_failed hc] at h
      exact ⟨c, List.mem_cons_self, hc, by simpa using h⟩
    · rw [firstFailed_cons_ok hc] at h
      obtain ⟨d, hd, h⟩ := ih h
      exact ⟨d, List.mem_cons_of_mem _ hd, h⟩

/-- A command whose checks pass ends with its results. -/
theorem State.settle_ok {s : State} {cs : List Check} (h : firstFailed cs = none) (r : State) :
    s.settle cs r = .next r.finish := by simp [State.settle, h]

/-- A command with a failed check ends with that error and no result. -/
theorem State.settle_failed {s : State} {cs : List Check} {e : CmdError}
    (h : firstFailed cs = some e) (r : State) : s.settle cs r = .next (s.fail e) := by
  simp [State.settle, h]

/-- All that settling a command can do. -/
theorem State.settle_cases {s t : State} {cs : List Check} {r : State}
    (h : s.settle cs r = .next t) :
    (firstFailed cs = none ∧ t = r.finish) ∨
    (∃ c ∈ cs, c.ok = false ∧ t = s.fail c.error) := by
  cases hf : firstFailed cs with
  | none =>
    rw [settle_ok hf] at h
    cases h
    exact .inl ⟨rfl, rfl⟩
  | some e =>
    rw [settle_failed hf] at h
    obtain ⟨c, hc, hk, rfl⟩ := firstFailed_mem hf
    cases h
    exact .inr ⟨c, hc, hk, rfl⟩

/-- A latch that holds an error keeps it; an empty one takes the new error. -/
theorem Status.latch_eq (f : Status) (code : BitVec 4) (info : BitVec 8) :
    f.latch code info =
      { f with
        err := true
        errCode := if f.err then f.errCode else code
        errInfo := if f.err then f.errInfo else info } := by
  cases f with
  | mk done err ovr errCode errInfo => cases err <;> rfl

end Sys2Proof.Machine
end

