-- ==== Sys2Proof/Laws/PerInstr.lean ====
section
/-! SUPPORT. The per-instruction families of LAWS.json: one lemma for each constructor of Instr. -/

namespace Sys2Proof.Laws

/-- A command's written form and its word's fields both pass their checks (R92, R93, R95, R98). -/
def LegalForm.Statement (i : Instr) : Prop :=
  i.wf = true ∧ (Fields.ofWord (encode i)).wf = true

theorem LegalForm.nop : LegalForm.Statement .nop := ⟨rfl, rfl⟩

theorem LegalForm.yuv2rgb (side : Side) : LegalForm.Statement (.yuv2rgb side) := by
  cases side <;> exact ⟨rfl, rfl⟩

theorem LegalForm.rgb2lab (side : Side) : LegalForm.Statement (.rgb2lab side) := by
  cases side <;> exact ⟨rfl, rfl⟩

theorem LegalForm.cvt (side : Side) : LegalForm.Statement (.cvt side) := by
  cases side <;> exact ⟨rfl, rfl⟩

theorem LegalForm.de : LegalForm.Statement .de := ⟨rfl, rfl⟩

theorem LegalForm.pixel : LegalForm.Statement .pixel := ⟨rfl, rfl⟩

theorem LegalForm.pow24 : LegalForm.Statement .pow24 := ⟨rfl, rfl⟩

theorem LegalForm.lin : LegalForm.Statement .lin := ⟨rfl, rfl⟩

end Sys2Proof.Laws
end

