-- ==== Sys2Proof/Laws/Step.lean ====
section
/-! SUPPORT. What a step can do, said once: whose move it is, and what each agent's move can be. -/

namespace Sys2Proof.Machine

theorem step_of_turn {s : State} {t : Turn} {rest : List Turn} (h : s.turns = t :: rest) :
    step s = { s with turns := rest }.move t := by
  simp [step, h]

theorem step_of_no_turn {s : State} (h : s.turns = []) : step s = s.move s.defaultTurn := by
  simp [step, h]

/-- Every step is a move of one agent, in the state with its turn used up. -/
theorem step_eq_move (s : State) :
    ∃ t, step s = { s with turns := s.turns.tail }.move t ∧
      (s.turns = t :: s.turns.tail ∨ s.turns = [] ∧ t = s.defaultTurn) := by
  cases h : s.turns with
  | nil =>
    refine ⟨s.defaultTurn, ?_, .inr ⟨rfl, rfl⟩⟩
    have : ({ s with turns := ([] : List Turn).tail } : State) = s := by
      cases s; simp_all
    rw [step_of_no_turn h, this]
  | cons t rest => exact ⟨t, step_of_turn h, .inl rfl⟩

theorem State.complete_of_decode {s : State} {i : Instr} (h : decode s.pending = some i) :
    s.complete = exec i s := by simp [State.complete, h]

theorem State.complete_of_illegal {s : State} (h : decode s.pending = none) :
    s.complete = .next (s.fail opcodeError) := by simp [State.complete, h]

/-- All that the unit's move can be: nothing while idle, a command's meaning, or the error of an illegal
word. -/
theorem State.unitMove_cases (s : State) :
    (s.busy = false ∧ s.unitMove = .next s) ∨
    (∃ i, s.busy = true ∧ decode s.pending = some i ∧ s.unitMove = exec i s) ∨
    (s.busy = true ∧ decode s.pending = none ∧ s.unitMove = .next (s.fail opcodeError)) := by
  cases hb : s.busy
  · simp [State.unitMove, hb]
  · cases hd : decode s.pending with
    | none => simp [State.unitMove, State.complete, hb, hd]
    | some i => simp [State.unitMove, State.complete, hb, hd]

/-- A command's meaning is a list of checks and the state with its results, or the bit-depth error. -/
theorem exec_settles (i : Instr) (s : State) :
    (∃ cs r, exec i s = s.settle cs r) ∨ exec i s = .next (s.fail bitDepthError) := by
  cases i with
  | nop => simp only [exec, execNop]; exact .inl ⟨_, _, rfl⟩
  | rgb2lab side => simp only [exec, execRgb2lab]; exact .inl ⟨_, _, rfl⟩
  | de => simp only [exec, execDe]; exact .inl ⟨_, _, rfl⟩
  | pow24 => simp only [exec, execPow24]; exact .inl ⟨_, _, rfl⟩
  | lin => simp only [exec, execLin]; exact .inl ⟨_, _, rfl⟩
  | yuv2rgb side =>
    simp only [exec, execYuv2rgb]
    split
    · exact .inr rfl
    · exact .inl ⟨_, _, rfl⟩
  | cvt side =>
    simp only [exec, execCvt]
    split
    · exact .inr rfl
    · exact .inl ⟨_, _, rfl⟩
  | pixel =>
    simp only [exec, execPixel]
    split
    · exact .inr rfl
    · exact .inl ⟨_, _, rfl⟩

end Sys2Proof.Machine
end

