-- ==== Sys2Proof/Tests/Slice0.lean ====
section
/-! SUPPORT. The model's own tests. Expected values are the spec's: the encodings of 30_encoding.md and
the vectors of 95_test_vectors.md, named in each comment. The last part shows, for every obligation with
hypotheses, concrete values that meet them. -/

namespace Sys2Proof.Tests

open Sys2Proof Sys2Proof.Machine

/-! ### Well-formedness: each check refuses an ill-formed term -/

/-- R98: "never 0". -/
theorem test_wf_refuses_side_zero : ({ mnemonic := .CVT, side := some 0 } : Written).wf = false := by
  decide

theorem test_wf_refuses_missing_side : ({ mnemonic := .CVT, side := none } : Written).wf = false := by
  decide

/-- R92: `DE` has no side. -/
theorem test_wf_refuses_side_on_de : ({ mnemonic := .DE, side := some 1 } : Written).wf = false := by
  decide

theorem test_wf_refuses_side_three : ({ mnemonic := .YUV2RGB, side := some 3 } : Written).wf = false := by
  decide

/-- R93. -/
theorem test_wf_refuses_reserved_bits :
    (Fields.ofWord 0x80000004).rsvOk = false ∧ (Fields.ofWord 0x80000004).wf = false := by decide

/-- R97: `OP` 0x08 is reserved. -/
theorem test_wf_refuses_reserved_op :
    (Fields.ofWord 0x00000008).opOk = false ∧ (Fields.ofWord 0x00000008).wf = false := by decide

/-- R92: `S = 1` on `DE`. -/
theorem test_wf_refuses_side_bit :
    (Fields.ofWord 0x00000104).sideOk = false ∧ (Fields.ofWord 0x00000104).wf = false := by decide

/-! ### Decoding: the patterns of R96, written out bit by bit -/

theorem test_decode_nop : decode 0b00000000000000000000000000000000 = some .nop := by decide

theorem test_decode_yuv2rgb :
    decode 0b00000000000000000000000000000001 = some (.yuv2rgb .one) ∧
    decode 0b00000000000000000000000100000001 = some (.yuv2rgb .two) := by decide

theorem test_decode_rgb2lab :
    decode 0b00000000000000000000000000000010 = some (.rgb2lab .one) ∧
    decode 0b00000000000000000000000100000010 = some (.rgb2lab .two) := by decide

theorem test_decode_cvt :
    decode 0b00000000000000000000000000000011 = some (.cvt .one) ∧
    decode 0b00000000000000000000000100000011 = some (.cvt .two) := by decide

theorem test_decode_de : decode 0b00000000000000000000000000000100 = some .de := by decide

theorem test_decode_pixel : decode 0b00000000000000000000000000000101 = some .pixel := by decide

theorem test_decode_pow24 : decode 0b00000000000000000000000000000110 = some .pow24 := by decide

theorem test_decode_lin : decode 0b00000000000000000000000000000111 = some .lin := by decide

/-- Vectors O2 to O5 and O7, and one reserved bit at each end. -/
theorem test_decode_refuses :
    decode 0x00000104 = none ∧ decode 0x80000004 = none ∧ decode 0x00000008 = none ∧
    decode 0x00000100 = none ∧ decode 0x000000FF = none ∧ decode 0x00000203 = none := by decide

/-- R62: the bytes of `CVT 2`, the lowest first; the bytes of the host's table numbering. -/
theorem test_decode_bytes :
    decodeBytes [0x03, 0x01, 0x00, 0x00, 0xAA] = some (.cvt .two, [0xAA]) ∧
    decodeBytes [0x03, 0x01, 0x00] = none ∧ decodeTableWord 32 0x103 = some (.cvt .two) := by decide

/-! ### Single steps on small states -/

/-- The next state of an outcome. -/
def nextOf (o : Host.Outcome State Fault Refusal) : Option State :=
  match o with
  | .next t    => some t
  | .fault _   => none
  | .refused _ => none

/-- The state after one step that completes the word `w`. -/
def completed (w : Nat) (s : State) : Option State := nextOf (step (s.withFetchWord 32 w))

/-- Reset with `X` written. -/
def withX (w : Word) : State := { State.reset with x := w }

/-- Reset with a bit depth and the samples of both sides. -/
def withSamples (bd : BitVec 2) (y u v : BitVec 16) : State :=
  { State.reset with
    bd := bd
    side1 := { Bank.zero with yuv := { y := y, u := u, v := v } }
    side2 := { Bank.zero with yuv := { y := y, u := u, v := v } } }

/-- Reset with the channels of both sides. -/
def withChannels (r g b : Word) : State :=
  { State.reset with
    side1 := { Bank.zero with rgb := { r := r, g := g, b := b } }
    side2 := { Bank.zero with rgb := { r := r, g := g, b := b } } }

/-- Vector O1. -/
theorem test_nop : (completed 0 State.reset).map State.statusWord = some 0x00000002 := by decide

/-- Vectors O2 and O3. -/
theorem test_illegal_words :
    (completed 0x00000104 State.reset).map State.statusWord = some 0x00030104 ∧
    (completed 0x80000004 State.reset).map State.statusWord = some 0x00030104 := by decide

/-- Vectors W2 and W5. -/
theorem test_pow24 :
    (completed 6 (withX 0x40000000)).map State.p = some 0x40A8E5A3 ∧
    (completed 6 (withX 0x417FFFFF)).map State.p = some 0x44420306 := by decide +kernel

/-- Vectors W13 and W14. -/
theorem test_pow24_domain :
    (completed 6 (withX 0x3D7FFFFF)).map State.statusWord = some 0x00200504 ∧
    (completed 6 (withX 0x41800000)).map State.statusWord = some 0x00200504 := by decide +kernel

/-- Vectors N2, N6 and N7: the threshold itself takes the linear branch. -/
theorem test_lin :
    (completed 7 (withX 0x80000000)).map State.p = some 0x80000000 ∧
    (completed 7 (withX 0x3D20A0A1)).map State.p = some 0x3B46EB61 ∧
    (completed 7 (withX 0x3D20A0A2)).map State.p = some 0x3B46DECC := by decide +kernel

/-- Vector N15. -/
theorem test_lin_domain :
    (completed 7 (withX 0x41800001)).map State.statusWord = some 0x00200504 := by decide +kernel

/-- Vector Y4, on side 2. -/
theorem test_yuv2rgb :
    (completed 0x101 (withSamples 0 81 90 240)).map (fun t => t.side2.rgb) =
      some { r := 0x3F8AC730, g := 0x3DC1939E, b := 0xBC935690 } := by decide +kernel

/-- Vectors Y19 and Y18: the bit depth is checked before the samples. -/
theorem test_yuv2rgb_errors :
    (completed 1 (withSamples 3 5000 5000 5000)).map State.statusWord = some 0x00020204 ∧
    (completed 1 (withSamples 1 0 1024 0)).map State.statusWord = some 0x00090404 := by decide +kernel

/-- Vectors L3 and L4, under `NUM_REF`. -/
theorem test_rgb2lab :
    rgb2labFn cduRef { r := cOne, g := 0, b := 0 } =
      { l := 0x4254F692, a := 0x42A02F57, b := 0x42866809 } ∧
    rgb2labFn cduRef { r := 0, g := cOne, b := 0 } =
      { l := 0x42AF782E, a := 0xC2AC5D8D, b := 0x42A65BD0 } := by decide +kernel

/-- Vectors L12 and L13. -/
theorem test_rgb2lab_errors :
    (completed 0x102 (withChannels 0 0 0x41800001)).map State.statusWord = some 0x00160504 ∧
    (completed 2 (withChannels 0xFF800000 0x7FC00000 0)).map State.statusWord = some 0x00100504 := by
  decide +kernel

/-- Vector V3, under `NUM_REF`: the mid-gray point of 90_conflicts.md C1. -/
theorem test_cvt :
    rgb2labFn cduRef (yuv2rgbFn cduRef 8 { y := 128, u := 128, v := 128 }) =
      { l := 0x425A1D22, a := 0xB7FA0000, b := 0x37480000 } := by decide +kernel

/-- Vector Y17 with `CVT 2`: no result register is written. -/
theorem test_cvt_range :
    (completed 0x103 (withSamples 0 0 0 300)).map (fun t => (t.statusWord, t.side2)) =
      some (0x000E0404, (withSamples 0 0 0 300).side2) := by decide +kernel

/-- Vector D11, under `NUM_REF`: the pair of 90_conflicts.md C3, its hues exactly 180 apart. -/
theorem test_de :
    de2000Fn cduRef { l := 0x42480000, a := 0xC2528AA8, b := 0x3FEBB01E }
      { l := 0x42480000, a := 0x42050EA8, b := 0xBF94F2FA } { kl := cOne, kc := cOne, kh := cOne } =
      0x42754129 := by decide +kernel

/-- Vectors D29 and D28: the weights are checked before the points; `LAB_LIMIT` is exclusive. -/
theorem test_de_errors :
    (completed 4 { State.reset with
      weights := { kl := 0, kc := cOne, kh := cOne }
      side1 := { Bank.zero with lab := { l := 0x7FC00000, a := 0, b := 0 } } }).map
        State.statusWord = some 0x00050304 ∧
    (completed 4 { State.reset with
      side2 := { Bank.zero with lab := { l := 0, a := 0x46800000, b := 0 } } }).map
        State.statusWord = some 0x001D0504 := by decide +kernel

/-- Vector X1, under `NUM_REF`, with the reset weights. -/
theorem test_pixel :
    de2000Fn cduRef (rgb2labFn cduRef (yuv2rgbFn cduRef 8 { y := 128, u := 128, v := 128 }))
      (rgb2labFn cduRef (yuv2rgbFn cduRef 8 { y := 81, u := 90, v := 240 })) State.reset.weights =
      0x420097BB := by decide +kernel

/-- Vectors X8 and X10. -/
theorem test_pixel_errors :
    (completed 5 { State.reset with bd := 3, weights := { kl := 0, kc := 0, kh := 0 } }).map
      State.statusWord = some 0x00020204 ∧
    (completed 5 { State.reset with
      side2 := { Bank.zero with yuv := { y := 0, u := 0, v := 256 } } }).map State.statusWord =
      some 0x000E0404 := by decide +kernel

/-- R225: a second error does not replace the first. R67: a write while busy is dropped with OVR. -/
theorem test_latch_and_overrun :
    (completed 7 { withX 0x7FC00000 with
      status := { done := false, err := true, ovr := false, errCode := 1, errInfo := 3 } }).map
        State.statusWord = some 0x00030104 ∧
    ({ State.reset with busy := true }.writeReg .x 1) =
      { State.reset with
        busy := true
        status := { done := false, err := false, ovr := true, errCode := 0, errInfo := 0 } } := by
  decide +kernel

end Sys2Proof.Tests

/-! ### Witnesses: for each obligation with hypotheses, values that meet them -/

namespace Sys2Proof.Tests

open Sys2Proof Sys2Proof.Machine

/-- A property of each member of a list, by evaluating it on the members. -/
theorem forall_of_all {α : Type} {p : α → Prop} [DecidablePred p] {l : List α}
    (h : l.all (fun a => decide (p a)) = true) : ∀ a ∈ l, p a := by
  simpa [List.all_eq_true] using h

/-- Reset with a word in flight. -/
def inFlight (w : Word) : State := { State.reset with busy := true, pending := w }

/-- Reset with a host about to make one access. -/
def withAccess (a : Access) : State := { State.reset with host := [.access a] }

theorem test_witness_PatternRowsDecode :
    (0x103 &&& Mnemonic.CVT.mask = Mnemonic.CVT.matchWord) ∧ decode 0x103 = some (.cvt .two) ∧
    Instr.side? (.cvt .two) = some .two ∧ decode 0x003 = some (.cvt .one) ∧
    Instr.side? (.cvt .one) = some .one := by decide

theorem test_witness_SideAndReservedFields :
    (0x00000203 : Word).extractLsb' 9 23 ≠ 0 ∧ (0x80000004 : Word).extractLsb' 9 23 ≠ 0 ∧
    decode 0x101 = some (.yuv2rgb .two) ∧ Instr.side? (.yuv2rgb .two) = some .two ∧
    decode 0x007 = some .lin ∧ Instr.lin.mnemonic.perSide = false := by decide

theorem test_witness_WorkedEncodings :
    ∀ w, w = 0x00000104 ∨ w = 0x80000004 → (inFlight w).busy = true ∧ (inFlight w).pending = w ∧
      (inFlight w).status.err = false ∧
      ({ inFlight w with turns := [.unit] } : State).turns = .unit :: [] := by
  intro w _
  exact ⟨rfl, rfl, rfl, rfl⟩

theorem test_witness_ReservedOffsetsReadZeroIgnoreWrites :
    State.reset.inReset = false ∧
    ∀ off ∈ [0x02C#12, 0x07C#12, 0x08C#12, 0xFFC#12], off.toNat % 4 = 0 ∧
      (off.toNat ∈ [0x02C, 0x03C, 0x04C, 0x05C, 0x06C, 0x07C] ∨ 0x08C ≤ off.toNat) :=
  ⟨rfl, forall_of_all (by decide)⟩

theorem test_witness_OnlyAlignedWordAccessesArePerformed :
    (Width.w8 ≠ .w32 ∨ (0#12).toNat % 4 ≠ 0) ∧ (Width.w32 ≠ .w32 ∨ (0xFFF#12).toNat % 4 ≠ 0) ∧
    (Width.w32 = .w32 ∧ (0xFFC#12).toNat % 4 = 0) := by decide

theorem test_witness_ReadsHaveNoSideEffect : State.reset.inReset = false := rfl

theorem test_witness_ReadFollowsWrite :
    (inFlight 4).inReset = false ∧ (Reg.ctrl = .ctrl ∨ Reg.ctrl.frozen = true ∧ (inFlight 4).busy = false) ∧
    State.reset.inReset = false ∧ (Reg.x = .ctrl ∨ Reg.x.frozen = true ∧ State.reset.busy = false) := by
  decide

theorem test_witness_WritingTwiceIsWritingOnce :
    ∃ s t u : State, Reg.x ≠ .cmd ∧ Reg.x ≠ .status ∧
      s.busAccess (.write Reg.x.offset .w32 5) = .next t ∧
      t.busAccess (.write Reg.x.offset .w32 5) = .next u :=
  ⟨inFlight 4, _, _, by decide, by decide, rfl, rfl⟩

theorem test_witness_CommandAcceptance :
    (inFlight 4).inReset = false ∧ (inFlight 4).busy = true ∧
    State.reset.inReset = false ∧ State.reset.busy = false := by decide

theorem test_witness_BusyFreezesOperands :
    ((inFlight 4).busy = true ∧ (inFlight 4).inReset = false ∧ Reg.kh.frozen = true ∧
      (0x08C#12).toNat % 4 = 0 ∧ 0x08C ≤ (0x08C#12).toNat ∧
      State.reset.inReset = false ∧ State.reset.busy = false ∧
      (Reg.de = .id ∨ Reg.de = .p ∨ Reg.de = .de)) ∧
    ∃ s t : State, step s = .next t ∧ s.busy = true ∧ t.busy = true :=
  ⟨by decide, { inFlight 4 with turns := [.host], host := [.wr .x 1] }, _, rfl, rfl, rfl⟩

theorem test_witness_StatusIsWriteOneToClear :
    (inFlight 4).inReset = false ∧ (0x00000006 : Word) = 0x6 := by decide

theorem test_witness_InterruptLevel :
    State.reset.inReset = false ∧ (1 : Word).getLsbD 0 = true ∧ (0 : Word).getLsbD 0 = false ∧
    ({ State.reset with host := [.poll] } : State).host = .poll :: [] := by decide

/-- A command is accepted. -/
theorem test_witness_StatusBitsChangeOnlyAsTold_start :
    ∃ s t : State, step s = .next t ∧ (∀ b, s.turns.head? ≠ some (.reset b)) ∧
      s.busy = false ∧ t.busy = true :=
  ⟨withAccess (.write 0x00C .w32 6), _, rfl, by decide, rfl, rfl⟩

/-- `NOP` completes: BUSY falls and DONE rises. -/
theorem test_witness_StatusBitsChangeOnlyAsTold_done :
    ∃ s t : State, step s = .next t ∧ (∀ b, s.turns.head? ≠ some (.reset b)) ∧
      s.busy = true ∧ t.busy = false ∧ s.status.done = false ∧ t.status.done = true :=
  ⟨inFlight 0, _, rfl, by decide, rfl, rfl, rfl, rfl⟩

/-- An illegal word completes: ERR rises. -/
theorem test_witness_StatusBitsChangeOnlyAsTold_err :
    ∃ s t : State, step s = .next t ∧ (∀ b, s.turns.head? ≠ some (.reset b)) ∧
      s.status.err = false ∧ t.status.err = true :=
  ⟨inFlight 0x104, _, rfl, by decide, rfl, rfl⟩

/-- A second error while one is held: ERR stays 1. -/
theorem test_witness_StatusBitsChangeOnlyAsTold_kept :
    ∃ s t : State, step s = .next t ∧ (∀ b, s.turns.head? ≠ some (.reset b)) ∧
      s.status.err = true ∧ t.status.err = true ∧ s.status.errCode = 5 ∧ s.pending = 0x104 :=
  ⟨{ inFlight 0x104 with
      status := { done := false, err := true, ovr := false, errCode := 5, errInfo := 32 } },
    _, rfl, by decide, rfl, rfl, rfl, rfl⟩

/-- Clearing an error latch that holds none: ERR stays 0. -/
theorem test_witness_StatusBitsChangeOnlyAsTold_none :
    ∃ s t : State, step s = .next t ∧ (∀ b, s.turns.head? ≠ some (.reset b)) ∧ s.status.Coherent ∧
      s.status.err = false ∧ t.status.err = false :=
  ⟨withAccess (.write 0x010 .w32 4), _, rfl, by decide, by unfold Status.Coherent; decide, rfl, rfl⟩

/-- A write to `X` while busy: OVR rises. -/
theorem test_witness_StatusBitsChangeOnlyAsTold_ovr :
    ∃ s t : State, step s = .next t ∧ (∀ b, s.turns.head? ≠ some (.reset b)) ∧
      s.status.ovr = false ∧ t.status.ovr = true :=
  ⟨{ inFlight 4 with turns := [.host], host := [.wr .x 1] }, _, rfl, by decide, rfl, rfl⟩

/-- `CLR`: all three latches fall. -/
theorem test_witness_StatusBitsChangeOnlyAsTold_clear :
    ∃ s t : State, step s = .next t ∧ (∀ b, s.turns.head? ≠ some (.reset b)) ∧
      s.status.done = true ∧ t.status.done = false ∧ s.status.err = true ∧ t.status.err = false ∧
      s.status.ovr = true ∧ t.status.ovr = false :=
  ⟨{ State.reset with
      host := [.clr]
      status := { done := true, err := true, ovr := true, errCode := 1, errInfo := 3 } },
    _, rfl, by decide, rfl, rfl, rfl, rfl, rfl, rfl⟩

/-- A command that ends in an error, with no earlier error and with one. -/
theorem test_witness_CommandsEndOkOrInAPreciseError :
    (∃ t, exec .pow24 (withX 0) = .next t ∧ (withX 0).status.err = false ∧ t.status.err = true) ∧
    ∃ s t : State, s.status.err = true ∧ exec .pow24 s = .next t ∧ t.status.done = false :=
  ⟨⟨_, rfl, rfl, rfl⟩,
    { State.reset with status := { State.reset.status with err := true, errCode := 1, errInfo := 3 } },
    _, rfl, rfl, rfl⟩

theorem test_witness_CommandsWriteOnlyTheirResults :
    ∃ s t : State, exec .nop s = .next t ∧
      (0 < 4096 ∧ 0 / 4 ≠ Reg.status.index ∧ ∀ r ∈ writes .nop, 0 / 4 ≠ r.index) ∧
      (4095 < 4096 ∧ 4095 / 4 ≠ Reg.status.index ∧ ∀ r ∈ writes .pixel, 4095 / 4 ≠ r.index) ∧
      Reg.x ≠ .status ∧ Reg.x ∉ writes .pixel :=
  ⟨State.reset, _, rfl, by decide, by decide, by decide, by decide⟩

theorem test_witness_FirstFailedCheckIsReported :
    expectedError .pow24 (withX 0) = some (5, 32) ∧
    expectedError .pixel (withSamples 0 255 255 255) = none ∧
    (∀ side, Instr.pixel ≠ .cvt side) := by
  refine ⟨by decide +kernel, by decide +kernel, ?_⟩
  intro side h
  cases h

theorem test_witness_IllegalWordsEndInOpcodeError :
    ∃ (s : State) (ts : List Turn), s.busy = true ∧ s.turns = .unit :: ts ∧ decode s.pending = none :=
  ⟨{ inFlight 0xFFFFFFFF with turns := [.unit] }, [], rfl, rfl, by decide⟩

theorem test_witness_StepRunsTheDecodedCommand :
    (inFlight 0x103).busy = true ∧ decode (inFlight 0x103).pending = some (.cvt .two) ∧
    (inFlight 0x103).turns = [] ∧
    ({ inFlight 4 with turns := [.unit, .host] }.withFetchWord 32 6).busy = true ∧
    decode ({ inFlight 4 with turns := [.unit, .host] }.withFetchWord 32 6).pending = some .pow24 ∧
    ({ inFlight 4 with turns := [.unit, .host] }.withFetchWord 32 6).turns =
      .unit :: [.unit, .host] := by decide

theorem test_witness_StepPerformsTheOtherMoves :
    (∃ s : State, s.turns = .host :: [] ∧ s.host = .access (.read 0 .w32) :: []) ∧
    (∃ s : State, s.turns = .host :: [] ∧ s.host = .poll :: [] ∧ s.inReset = false) ∧
    (∃ s : State, s.turns = .host :: [] ∧ s.host = []) ∧
    (∃ s : State, s.turns = .unit :: [] ∧ s.busy = false) ∧
    (State.reset.turns = [] ∧ State.reset.busy = false ∧ State.reset.host = []) ∧
    (∃ s : State, s.turns = .reset false :: [] ∧ s.inReset = true) :=
  ⟨⟨{ withAccess (.read 0 .w32) with turns := [.host] }, rfl, rfl⟩,
    ⟨{ State.reset with turns := [.host], host := [.poll] }, rfl, rfl, rfl⟩,
    ⟨{ State.reset with turns := [.host] }, rfl, rfl⟩,
    ⟨{ State.reset with turns := [.unit] }, rfl, rfl⟩, ⟨rfl, rfl, rfl⟩,
    ⟨{ State.reset with turns := [.reset false], inReset := true }, rfl, rfl⟩⟩

theorem test_witness_CompletionIsAlwaysEnabled :
    ((inFlight 0xFFFFFFFF).busy = true ∧ (inFlight 0xFFFFFFFF).turns = []) ∧
    ({ inFlight 5 with turns := [.unit] } : State).busy = true ∧
    ({ inFlight 5 with turns := [.unit] } : State).turns.head? = some .unit := by decide

theorem test_witness_OnlyRefusedAccessesStop :
    step (withAccess (.read 0x012 .w32)) = .fault (.busError (.read 0x012 .w32)) := rfl

theorem test_witness_PAndDeHaveTheirOnlyWriters :
    (∃ s t : State, step s = .next t ∧ (∀ b, s.turns.head? ≠ some (.reset b)) ∧ t.p ≠ s.p) ∧
    ∃ s : State, (∀ b, s.turns.head? ≠ some (.reset b)) ∧ decode s.pending = some .de ∧
      ∃ t, step s = .next t :=
  ⟨⟨{ inFlight 6 with x := 0x3F800000 }, _, rfl, by decide, by decide⟩,
    inFlight 4, by decide, by decide, _, rfl⟩

theorem test_witness_EveryStepKeepsInv :
    ∃ s t : State, s.Inv ∧ step s = .next t ∧ s.busy = true ∧ t.status.errCode = 1 := by
  refine ⟨{ inFlight 0 with
    de := 0x3F800000
    status := { done := false, err := true, ovr := true, errCode := 1, errInfo := 3 } }, _, ?_, rfl, rfl,
    rfl⟩
  exact ⟨by unfold Status.Coherent; decide, by decide, fun h => by cases h⟩

theorem test_witness_PendingIsInvisibleWhileIdle :
    (∃ t, (withAccess (.write 0x00C .w32 6)).busy = false ∧
      step (withAccess (.write 0x00C .w32 6)) = .next t ∧ t.busy = true) ∧
    ∃ f, (withAccess (.read 1 .w32)).busy = false ∧ step (withAccess (.read 1 .w32)) = .fault f :=
  ⟨⟨_, rfl, rfl, rfl⟩, _, rfl, rfl⟩

/-- The host polls twice while the command is in flight. -/
theorem test_witness_PollReturnsAfterCompletion :
    ∃ s t : State, s.busy = false ∧ s.inReset = false ∧ s.NoReset ∧ s.host = [.wr .cmd 6, .poll] ∧
      core.run 5 s = .next t ∧ t.host = [] := by
  refine ⟨{ State.reset with
    x := 0x3F800000, host := [.wr .cmd 6, .poll], turns := [.host, .host, .host, .unit, .host] },
    _, rfl, rfl, ?_, rfl, rfl, rfl⟩
  intro b hb
  simp at hb

theorem test_witness_RunCommandEnds :
    ∃ s : State, s.busy = false ∧ s.inReset = false ∧ s.NoReset ∧ s.host = HostOp.run (.cvt .two) ∧
      s.turns = [.unit, .unit] := by
  refine ⟨{ State.reset with host := HostOp.run (.cvt .two), turns := [.unit, .unit] }, rfl, rfl, ?_,
    rfl, rfl⟩
  intro b hb
  simp at hb

theorem test_witness_ResetFromAnyState :
    (∃ s : State, s.turns = .reset true :: [] ∧ s.busy = true) ∧ ∃ s : State, s.inReset = true :=
  ⟨⟨{ inFlight 4 with turns := [.reset true] }, rfl, rfl⟩, { State.reset with inReset := true }, rfl⟩

theorem test_witness_SoftwareRestoresReset : (withSamples 3 5000 5000 5000).busy = false := rfl

/-- The largest finite value and its negation. -/
theorem test_witness_AddAndSubtractRoundToNearest :
    isFinite 0x7F7FFFFF = true ∧ isFinite 0xFF7FFFFF = true ∧
    fvalue 0x7F7FFFFF + fvalue 0xFF7FFFFF = 0 := by decide

theorem test_witness_MultiplyAndDivideRoundToNearest :
    isFinite 0x7F7FFFFF = true ∧ isFinite 0x80000001 = true ∧ fvalue 0x80000001 ≠ 0 := by decide

theorem test_witness_SquareRootRoundsToNearest :
    isFinite 0x40000000 = true ∧ fsign 0x40000000 = false ∧
    isFinite 0x3FB504F4 = true ∧ fsign 0x3FB504F4 = false ∧
    funits (fsqrt 0x40000000) < funits 0x3FB504F4 ∧
    isFinite 0x00000000 = true ∧ fsign 0x00000000 = false ∧
    funits 0x00000000 < funits (fsqrt 0x40000000) := by decide +kernel

/-- Both ends of the domain. -/
theorem test_witness_Pow24Completes :
    ∀ x ∈ [0x3D800000#32, 0x417FFFFF#32],
      fsign (withX x).x = false ∧ 123 ≤ fexp (withX x).x ∧ fexp (withX x).x ≤ 130 :=
  forall_of_all (by decide +kernel)

/-- Both ends of the domain. -/
theorem test_witness_LinCompletes :
    ∀ x ∈ [0xC1800000#32, 0x41800000#32],
      isFinite (withX x).x = true ∧ fle (fabs (withX x).x) 0x41800000 = true :=
  forall_of_all (by decide +kernel)

theorem test_witness_Yuv2rgbCompletes :
    (((withSamples 0 255 0 255).bd, 8) ∈ [(0#2, 8), (1#2, 10), (2#2, 12)] ∧
      ((withSamples 0 255 0 255).bank .one).yuv.Ok 8) ∧
    (((withSamples 2 4095 0 4095).bd, 12) ∈ [(0#2, 8), (1#2, 10), (2#2, 12)] ∧
      ((withSamples 2 4095 0 4095).bank .two).yuv.Ok 12) :=
  ⟨⟨by decide, forall_of_all (by decide +kernel)⟩, by decide, forall_of_all (by decide +kernel)⟩

theorem test_witness_Rgb2labCompletes :
    ((withChannels 0x41800000 0xC1800000 0).bank .two).rgb.Ok := by
  exact forall_of_all (by decide +kernel)

theorem test_witness_CvtCompletes :
    ((withSamples 1 1023 0 1023).bd, 10) ∈ [(0#2, 8), (1#2, 10), (2#2, 12)] ∧
    ((withSamples 1 1023 0 1023).bank .one).yuv.Ok 10 :=
  ⟨by decide, forall_of_all (by decide +kernel)⟩

/-- A point at the corner of `LAB_LIMIT`. -/
def cornerPoint : Lab := { l := 0x467FFFFF, a := 0xC67FFFFF, b := 0x467FFFFF }

/-- Weights at both ends of their range. -/
def edgeWeights : Weights := { kl := 0x3B800000, kc := 0x43800000, kh := 0x3B800000 }

theorem cornerPoint_ok : cornerPoint.Ok := by
  exact forall_of_all (by decide +kernel)

theorem edgeWeights_ok : edgeWeights.Ok := by
  exact forall_of_all (by decide +kernel)

theorem test_witness_DeCompletes :
    ∃ s : State, s.weights.Ok ∧ s.side1.lab.Ok ∧ s.side2.lab.Ok :=
  ⟨{ State.reset with
      weights := edgeWeights
      side1 := { Bank.zero with lab := cornerPoint }
      side2 := { Bank.zero with lab := cornerPoint } },
    edgeWeights_ok, cornerPoint_ok, cornerPoint_ok⟩

theorem test_witness_PixelCompletes :
    ∃ s : State, (s.bd, 8) ∈ [(0#2, 8), (1#2, 10), (2#2, 12)] ∧ s.weights.Ok ∧
      s.side1.yuv.Ok 8 ∧ s.side2.yuv.Ok 8 :=
  ⟨withSamples 0 255 255 255, by decide, forall_of_all (by decide +kernel), forall_of_all (by decide +kernel), forall_of_all (by decide +kernel)⟩

/-- Both ends of the domain. -/
theorem test_witness_PowerIsWithinItsRelativeError :
    ∀ x ∈ [0x3D800000#32, 0x417FFFFF#32], fsign x = false ∧ 123 ≤ fexp x ∧ fexp x ≤ 130 :=
  forall_of_all (by decide +kernel)

/-- The value just above the threshold, and the limit. -/
theorem test_witness_GammaStaysInThePowerDomain :
    ∀ v ∈ [0x3D20A0A2#32, 0x41800000#32],
      isFinite v = true ∧ fle (fabs v) rgbLimit = true ∧ flt cGammaThr v = true :=
  forall_of_all (by decide +kernel)

theorem test_witness_LegalSamplesGiveBoundedRgb :
    8 ∈ [8, 10, 12] ∧ ({ y := 255, u := 0, v := 255 } : Yuv).Ok 8 ∧
    12 ∈ [8, 10, 12] ∧ ({ y := 0, u := 4095, v := 0 } : Yuv).Ok 12 :=
  ⟨by decide, forall_of_all (by decide +kernel), by decide, forall_of_all (by decide +kernel)⟩

theorem test_witness_BitDepthOnlyScales : ({ y := 255, u := 0, v := 255 } : Yuv).Ok 8 := by
  exact forall_of_all (by decide +kernel)

theorem test_witness_NeutralChromaGivesEqualChannels :
    12 ∈ [8, 10, 12] ∧ ({ y := 4095, u := 2048, v := 2048 } : Yuv).Ok 12 ∧
    (2048 : BitVec 16) = BitVec.ofNat 16 (128 * 2 ^ (12 - 8)) :=
  ⟨by decide, forall_of_all (by decide +kernel), by decide⟩

/-- A `NUM` that meets every premise the statements make: a sine that keeps the sign and is a zero, a
cube root that is 1 for every operand above 0. -/
def smallNum : Numerics :=
  { cbrt := fun x => if flt cZero x then cOne else cZero
    atan2 := fun _ _ => cZero
    sin := fun x => packSign (fsign x) 0
    cos := fun _ => cOne
    exp := fun _ => cOne }

theorem smallNum_bounded : Bounded smallNum := by
  have one : fle (fabs cOne) cOne = true ∧ fle cZero cOne = true ∧ fle cOne cOne = true := by
    decide +kernel
  have atan : fle (fabs cZero) cPi = true := by decide
  have zero : ∀ b, fle (fabs (packSign b 0)) cOne = true := by decide +kernel
  exact ⟨fun x _ => zero (fsign x), fun _ _ => one.1, fun _ _ _ _ => atan,
    fun _ _ _ => ⟨one.2.1, one.2.2⟩⟩

theorem smallNum_sin_odd : SinOdd smallNum := by
  refine ⟨fun x _ => ?_, by decide +kernel⟩
  have hs : fsign (fneg x) = !fsign x := by
    rw [fneg, fsign_eq, toNat_packSign _ (fmag_lt x)]
    have := fmag_lt x
    cases fsign x
    · exact decide_eq_true (by simp)
    · exact decide_eq_false (by simpa using this)
  show packSign (fsign (fneg x)) 0 = fneg (packSign (fsign x) 0)
  rw [hs]
  cases fsign x <;> decide +kernel

theorem smallNum_cbrt_bounded : CbrtBounded smallNum := by
  intro t _ h _
  simp only [smallNum, h, if_true]
  decide +kernel

theorem test_witness_LegalRgbGivesLegalLab :
    ∃ (n : Numerics) (t : Rgb), CbrtBounded n ∧ t.Ok := by
  refine ⟨smallNum, { r := 0x41800000, g := 0xC1800000, b := 0 }, smallNum_cbrt_bounded, ?_⟩
  exact forall_of_all (by decide +kernel)

theorem test_witness_BlackAndWhitePoints :
    smallNum.cbrt cOne = cOne ∧ smallNum.cbrt 0x3F800001 = cOne := by decide +kernel

/-- The next state of an outcome that has one. -/
def nextOr (d : State) (o : Host.Outcome State Fault Refusal) : State := (nextOf o).getD d

theorem eq_next_nextOr {o : Host.Outcome State Fault Refusal} (h : (nextOf o).isSome = true) (d : State) :
    o = .next (nextOr d o) := by
  cases o <;> simp_all [nextOf, nextOr]

/-- Video black on both sides: it needs no `NUM`. -/
def black : State := withSamples 0 16 128 128

theorem test_witness_CvtIsYuv2rgbThenRgb2lab :
    ∃ s t u : State, (s.bd, 8) ∈ [(0#2, 8), (1#2, 10), (2#2, 12)] ∧ (s.bank .one).yuv.Ok 8 ∧
      exec (.yuv2rgb .one) s = .next t ∧ exec (.rgb2lab .one) t = .next u := by
  refine ⟨black, _, _, by decide, ?_, eq_next_nextOr (d := black) ?_, eq_next_nextOr (d := black) ?_⟩
  · exact forall_of_all (by decide +kernel)
  · decide +kernel
  · decide +kernel

theorem test_witness_PixelIsCvtCvtDe :
    ∃ s t u v : State, (s.bd, 8) ∈ [(0#2, 8), (1#2, 10), (2#2, 12)] ∧ s.weights.Ok ∧
      s.side1.yuv.Ok 8 ∧ s.side2.yuv.Ok 8 ∧
      exec (.cvt .one) s = .next t ∧ exec (.cvt .two) t = .next u ∧
      u.side1.lab.Ok ∧ u.side2.lab.Ok ∧ exec .de u = .next v := by
  refine ⟨black, _, _, _, by decide, ?_, ?_, ?_, eq_next_nextOr (d := black) ?_,
    eq_next_nextOr (d := black) ?_, ?_, ?_, eq_next_nextOr (d := black) ?_⟩
  · exact forall_of_all (by decide +kernel)
  · exact forall_of_all (by decide +kernel)
  · exact forall_of_all (by decide +kernel)
  · decide +kernel
  · decide +kernel
  · exact forall_of_all (by decide +kernel)
  · exact forall_of_all (by decide +kernel)
  · decide +kernel

theorem test_witness_DistanceIsFinite :
    ∃ (n : Numerics) (p q : Lab) (k : Weights), Bounded n ∧ p.Ok ∧ q.Ok ∧ k.Ok :=
  ⟨smallNum, cornerPoint, cornerPoint, edgeWeights, smallNum_bounded, cornerPoint_ok, cornerPoint_ok,
    edgeWeights_ok⟩

theorem test_witness_DistanceToItselfIsZero :
    ∃ (n : Numerics) (p : Lab) (k : Weights), Bounded n ∧ n.sin cZero = cZero ∧ p.Ok ∧ k.Ok :=
  ⟨smallNum, cornerPoint, edgeWeights, smallNum_bounded, by decide +kernel, cornerPoint_ok, edgeWeights_ok⟩

theorem test_witness_DistanceIsSymmetric :
    ∃ (n : Numerics) (p q : Lab) (k : Weights), Bounded n ∧ SinOdd n ∧ p.Ok ∧ q.Ok ∧ k.Ok :=
  ⟨smallNum, cornerPoint, cornerPoint, edgeWeights, smallNum_bounded, smallNum_sin_odd, cornerPoint_ok,
    cornerPoint_ok, edgeWeights_ok⟩

/-- The smallest positive operand and a large one. -/
theorem test_witness_ReferenceCubeRootIsNearest :
    ∀ x ∈ [0x00000001#32, 0x44800000#32],
      isFinite x = true ∧ flt cZero x = true ∧
      isFinite 0x7F7FFFFF = true ∧ fsign 0x7F7FFFFF = false ∧
      funits (Ref.cbrt x) < funits 0x7F7FFFFF ∧
      isFinite 0x00000000 = true ∧ fsign 0x00000000 = false ∧
      funits 0x00000000 < funits (Ref.cbrt x) :=
  forall_of_all (by decide +kernel)

end Sys2Proof.Tests
end

section
/-! ### A command's completion leaves the host, the turns and the reset input alone, and a RUN ends -/

namespace Sys2Proof.Machine

/-- What a completion leaves as it is, whatever the command: the interrupt enable, the word in flight
and everything that is not the unit's. -/
structure State.SameAgents (s t : State) : Prop where
  ie        : t.ie = s.ie
  pending   : t.pending = s.pending
  inReset   : t.inReset = s.inReset
  host      : t.host = s.host
  turns     : t.turns = s.turns
  reads     : t.reads = s.reads
  freeReads : t.freeReads = s.freeReads

theorem State.SameAgents.refl (s : State) : s.SameAgents s := ⟨rfl, rfl, rfl, rfl, rfl, rfl, rfl⟩

theorem State.SameAgents.setRgb {s t : State} (h : s.SameAgents t) (side : Side) (v : Rgb) :
    s.SameAgents (t.setRgb side v) := by
  constructor <;> simp [h.ie, h.pending, h.inReset, h.host, h.turns, h.reads, h.freeReads]

theorem State.SameAgents.setLab {s t : State} (h : s.SameAgents t) (side : Side) (v : Lab) :
    s.SameAgents (t.setLab side v) := by
  constructor <;> simp [h.ie, h.pending, h.inReset, h.host, h.turns, h.reads, h.freeReads]

theorem State.SameAgents.setP {s t : State} (h : s.SameAgents t) (w : Word) : s.SameAgents (t.setP w) :=
  ⟨h.ie, h.pending, h.inReset, h.host, h.turns, h.reads, h.freeReads⟩

theorem State.SameAgents.setDe {s t : State} (h : s.SameAgents t) (w : Word) :
    s.SameAgents (t.setDe w) :=
  ⟨h.ie, h.pending, h.inReset, h.host, h.turns, h.reads, h.freeReads⟩

theorem State.SameAgents.finish {s t : State} (h : s.SameAgents t) : s.SameAgents t.finish :=
  ⟨h.ie, h.pending, h.inReset, h.host, h.turns, h.reads, h.freeReads⟩

theorem State.SameAgents.fail (s : State) (e : CmdError) : s.SameAgents (s.fail e) :=
  ⟨rfl, rfl, rfl, rfl, rfl, rfl, rfl⟩

/-- Settling ends idle, and with the agents of the state the results were written in. -/
theorem State.settle_idle {s r : State} (h : s.SameAgents r) (cs : List Check) :
    ∃ t, s.settle cs r = .next t ∧ t.busy = false ∧ s.SameAgents t := by
  cases hf : firstFailed cs with
  | none => exact ⟨r.finish, State.settle_ok hf r, rfl, h.finish⟩
  | some e => exact ⟨s.fail e, State.settle_failed hf r, rfl, .fail s e⟩

/-- Every command ends, idle, with the agents as they were (R221). -/
theorem exec_idle (i : Instr) (s : State) :
    ∃ t, exec i s = .next t ∧ t.busy = false ∧ s.SameAgents t := by
  have same := State.SameAgents.refl s
  cases i with
  | nop => simp only [exec, execNop]; exact State.settle_idle same _
  | rgb2lab side => simp only [exec, execRgb2lab]; exact State.settle_idle (same.setLab _ _) _
  | de => simp only [exec, execDe]; exact State.settle_idle (same.setDe _) _
  | pow24 => simp only [exec, execPow24]; exact State.settle_idle (same.setP _) _
  | lin => simp only [exec, execLin]; exact State.settle_idle (same.setP _) _
  | yuv2rgb side =>
    simp only [exec, execYuv2rgb]
    split
    · exact ⟨_, rfl, rfl, .fail s _⟩
    · exact State.settle_idle (same.setRgb _ _) _
  | cvt side =>
    simp only [exec, execCvt]
    split
    · exact ⟨_, rfl, rfl, .fail s _⟩
    · exact State.settle_idle ((same.setRgb _ _).setLab _ _) _
  | pixel =>
    simp only [exec, execPixel]
    split
    · exact ⟨_, rfl, rfl, .fail s _⟩
    · refine State.settle_idle ?_ _
      exact ((((same.setRgb _ _).setRgb _ _).setLab _ _).setLab _ _).setDe _

/-- The word in flight completes whatever it is, legal or not (R221). -/
theorem State.complete_idle (s : State) :
    ∃ t, s.complete = .next t ∧ t.busy = false ∧ s.SameAgents t := by
  cases h : decode s.pending with
  | none => rw [State.complete_of_illegal h]; exact ⟨_, rfl, rfl, .fail s _⟩
  | some i => rw [State.complete_of_decode h]; exact exec_idle i s

/-! #### The unit's and the host's moves out of reset -/

theorem State.unitMove_idle {s : State} (h : s.busy = false) : s.unitMove = .next s := by
  simp [State.unitMove, h]

theorem State.unitMove_busy {s : State} (h : s.busy = true) : s.unitMove = s.complete := by
  simp [State.unitMove, h]

theorem State.hostMove_nil {s : State} (h : s.host = []) : s.hostMove = .next s := by
  simp [State.hostMove, h]

theorem getElem_zero_append_bit {n : Nat} (v : BitVec n) (b : Bool) : (v ++ bit b)[0] = b := by
  rw [BitVec.getElem_append]
  simp [bit]

/-- Bit 0 of the STATUS word is BUSY (R29). -/
@[simp] theorem State.statusWord_bit_zero (s : State) : s.statusWord[0] = s.busy :=
  getElem_zero_append_bit (n := 31) _ s.busy

/-- A poll's read out of reset: the poll stays first exactly while the unit is busy (R100). -/
theorem State.hostMove_poll {s : State} {rest : List HostOp} (h : s.host = .poll :: rest)
    (hr : s.inReset = false) :
    s.hostMove = .next { s with
      reads := s.statusWord :: s.reads, host := if s.busy then .poll :: rest else rest } := by
  have hw : s.wordAt Reg.status.index = s.statusWord := s.wordAt_index .status
  simp [State.hostMove, h, State.pollMove, State.busRead, hr, hw, State.returned]

/-- A write to a register out of reset (R65). -/
theorem State.hostMove_wr {s : State} {rest : List HostOp} {r : Reg} {w : Word}
    (h : s.host = .wr r w :: rest) (hr : s.inReset = false) :
    s.hostMove = .next ({ s with host := rest }.writeReg r w) := by
  simp [State.hostMove, h, HostOp.wr, State.busAccess, Access.accepted, hr, Reg.offset_div,
    Reg.offset_mod]

/-! #### The stages of a RUN -/

/-- Where a host that runs command `i` stands (R99), with the number of moves still needed: it has to
write CMD, the command is in flight, the poll has to end, or it has ended. -/
inductive RunStage (i : Instr) (s : State) : Nat → Prop where
  | toWrite (hb : s.busy = false) (hh : s.host = HostOp.run i) : RunStage i s 3
  | inFlight (hb : s.busy = true) (hh : s.host = [.poll]) : RunStage i s 2
  | toPoll (hb : s.busy = false) (hh : s.host = [.poll]) : RunStage i s 1
  | ended (hb : s.busy = false) (hh : s.host = []) : RunStage i s 0

/-- The stage reads only `busy` and the host's list. -/
theorem RunStage.congr {i : Instr} {s t : State} {k : Nat} (h : RunStage i s k) (hb : t.busy = s.busy)
    (hh : t.host = s.host) : RunStage i t k := by
  cases h with
  | toWrite b l => exact .toWrite (hb.trans b) (hh.trans l)
  | inFlight b l => exact .inFlight (hb.trans b) (hh.trans l)
  | toPoll b l => exact .toPoll (hb.trans b) (hh.trans l)
  | ended b l => exact .ended (hb.trans b) (hh.trans l)

/-- The unit's move leaves the stage or, with a command in flight, completes it. -/
theorem RunStage.unitMove {i : Instr} {s : State} {k : Nat} (h : RunStage i s k) :
    ∃ t k', s.unitMove = .next t ∧ t.turns = s.turns ∧ t.inReset = s.inReset ∧ RunStage i t k' ∧
      k' ≤ k ∧ (s.busy = true → k' ≤ k - 1) := by
  cases hb : s.busy with
  | false => exact ⟨s, k, State.unitMove_idle hb, rfl, rfl, h, le_rfl, by simp⟩
  | true =>
    cases h with
    | inFlight _ hh =>
      obtain ⟨t, ht, hidle, same⟩ := s.complete_idle
      exact ⟨t, 1, (State.unitMove_busy hb).trans ht, same.turns, same.inReset,
        .toPoll hidle (same.host.trans hh), by decide, fun _ => by decide⟩
    | toWrite hb' | toPoll hb' | ended hb' => simp [hb] at hb'

/-- The host's move leaves the stage or, while the unit is idle, takes the next one. -/
theorem RunStage.hostMove {i : Instr} {s : State} {k : Nat} (h : RunStage i s k)
    (hr : s.inReset = false) :
    ∃ t k', s.hostMove = .next t ∧ t.turns = s.turns ∧ t.inReset = s.inReset ∧ RunStage i t k' ∧
      k' ≤ k ∧ (s.busy = false → k' ≤ k - 1) := by
  cases h with
  | toWrite hb hh =>
    refine ⟨_, 2, State.hostMove_wr hh hr, ?_, ?_, .inFlight ?_ ?_, by decide, fun _ => by decide⟩ <;>
      simp [State.writeReg, State.acceptCommand, hb]
  | inFlight hb hh =>
    exact ⟨_, 2, State.hostMove_poll hh hr, rfl, rfl, .inFlight hb (by simp [hb]), le_rfl, by simp [hb]⟩
  | toPoll hb hh =>
    exact ⟨_, 0, State.hostMove_poll hh hr, rfl, rfl, .ended hb (by simp [hb]), by decide,
      fun _ => le_rfl⟩
  | ended hb hh => exact ⟨s, 0, State.hostMove_nil hh, rfl, rfl, .ended hb hh, le_rfl, fun _ => le_rfl⟩

/-- One step of a RUN out of reset: it uses up a turn and never goes back a stage; with no turn
prescribed it takes the next stage (log 2). -/
theorem RunStage.step {i : Instr} {s : State} {k : Nat} (h : RunStage i s k) (hr : s.inReset = false)
    (hn : s.NoReset) :
    ∃ t k', Machine.step s = .next t ∧ t.inReset = false ∧ t.turns = s.turns.tail ∧ RunStage i t k' ∧
      k' + t.turns.length ≤ k + s.turns.length - 1 := by
  cases ht : s.turns with
  | nil =>
    rw [step_of_no_turn ht, State.defaultTurn]
    cases hb : s.busy with
    | false =>
      obtain ⟨t, k', hm, hts, hir, hst, -, hk⟩ := h.hostMove hr
      exact ⟨t, k', hm, hir.trans hr, hts.trans ht, hst, by simpa [hts, ht] using hk hb⟩
    | true =>
      obtain ⟨t, k', hm, hts, hir, hst, -, hk⟩ := h.unitMove
      exact ⟨t, k', hm, hir.trans hr, hts.trans ht, hst, by simpa [hts, ht] using hk hb⟩
  | cons turn rest =>
    rw [step_of_turn ht]
    have h' : RunStage i { s with turns := rest } k := h.congr rfl rfl
    cases turn with
    | host =>
      obtain ⟨t, k', hm, hts, hir, hst, hk, -⟩ := h'.hostMove hr
      exact ⟨t, k', hm, hir.trans hr, hts, hst, by simp [hts]; omega⟩
    | unit =>
      obtain ⟨t, k', hm, hts, hir, hst, hk, -⟩ := h'.unitMove
      exact ⟨t, k', hm, hir.trans hr, hts, hst, by simp [hts]; omega⟩
    | reset b => exact absurd (ht ▸ List.mem_cons_self) (hn b)

/-- A RUN ends once it has had as many steps as turns are prescribed and stages remain. -/
theorem RunStage.run_ends {i : Instr} {n : Nat} : ∀ {s : State} {k : Nat}, RunStage i s k →
    s.inReset = false → s.NoReset → k + s.turns.length ≤ n →
    ∃ t, core.run n s = .next t ∧ t.Ended := by
  induction n with
  | zero =>
    intro s k h _ _ hle
    obtain rfl : k = 0 := by omega
    cases h with
    | ended hb hh => exact ⟨s, rfl, hh, hb⟩
  | succ n ih =>
    intro s k h hr hn hle
    obtain ⟨t, k', hstep, hr', hts, hst, hk⟩ := h.step hr hn
    obtain ⟨u, hu, hend⟩ := ih hst hr' (fun b hb => hn b (List.mem_of_mem_tail (hts ▸ hb))) (by omega)
    refine ⟨u, ?_, hend⟩
    have hcore : core.step s = .next t := hstep
    simpa [Host.Core.run, hcore] using hu

/-- Settles O31: a RUN has three stages, no step goes back, and a step with no turn prescribed takes
the next one. -/
theorem runCommandEnds : Obligations.RunCommandEnds := by
  intro s i hb hr hn hh
  exact (RunStage.toWrite hb hh).run_ends hr hn (by omega)

end Sys2Proof.Machine
end

section
/-! ### What rounding does, said once -/

namespace Sys2Proof.Machine

/-! #### The magnitude patterns as a grid -/

/-- In the block of spacing `2^t` the pattern `t * 2^23 + j` is worth `j` spacings; `j = 2^24` is the
first pattern of the next block. -/
theorem magUnits_block {t j : Nat} (hlo : t = 0 ∨ 2 ^ 23 ≤ j) (hhi : j ≤ 2 ^ 24) :
    magUnits (t * 2 ^ 23 + j) = j * 2 ^ t := by
  unfold magUnits
  rcases Nat.lt_or_ge j (2 ^ 23) with hj | hj
  · obtain rfl : t = 0 := by omega
    have hq : (0 * 2 ^ 23 + j) / 2 ^ 23 = 0 := by omega
    rw [hq, if_pos rfl, Nat.zero_mul, Nat.zero_add, Nat.zero_sub]
  · rcases Nat.eq_or_lt_of_le hhi with rfl | hj'
    · have hq : (t * 2 ^ 23 + 2 ^ 24) / 2 ^ 23 = t + 2 := by omega
      have hm : (t * 2 ^ 23 + 2 ^ 24) % 2 ^ 23 = 0 := by omega
      rw [hq, hm, if_neg (by omega), show t + 2 - 1 = t + 1 by omega, pow_succ]
      ring
    · have hq : (t * 2 ^ 23 + j) / 2 ^ 23 = t + 1 := by omega
      have hm : 2 ^ 23 + (t * 2 ^ 23 + j) % 2 ^ 23 = j := by omega
      rw [hq, hm, if_neg (by omega), Nat.add_sub_cancel]

/-- Every pattern above 0 is in a block, and not the first of one above block 0. -/
theorem exists_block {k : Nat} (hk : 0 < k) :
    ∃ t j, k = t * 2 ^ 23 + j ∧ (t = 0 ∨ 2 ^ 23 < j) ∧ 0 < j ∧ j ≤ 2 ^ 24 := by
  rcases Nat.lt_or_ge (2 ^ 24) k with h | h
  · exact ⟨(k - 1) / 2 ^ 23 - 1, (k - 1) % 2 ^ 23 + 1 + 2 ^ 23, by omega, by omega, by omega, by omega⟩
  · exact ⟨0, k, by omega, by omega, hk, h⟩

/-- The midpoint below a pattern, doubled. -/
theorem magUnits_midpoint {t j : Nat} (hlo : t = 0 ∨ 2 ^ 23 < j) (hj : 0 < j) (hhi : j ≤ 2 ^ 24) :
    magUnits (t * 2 ^ 23 + j - 1) + magUnits (t * 2 ^ 23 + j) = (2 * j - 1) * 2 ^ t := by
  rw [Nat.add_sub_assoc hj, magUnits_block (by omega) (by omega), magUnits_block (by omega) hhi,
    ← Nat.add_mul]
  congr 1
  omega

/-- The pattern found at the exponent of the quotient itself is reached exactly when the significand
at the pattern's own exponent is. -/
theorem le_block_iff {n d t j : Nat} (hd : 0 < d) (hlo : t = 0 ∨ 2 ^ 23 < j) (hj : 0 < j)
    (hhi : j ≤ 2 ^ 24) :
    t * 2 ^ 23 + j ≤ (Nat.log2 (n / d) - 23) * 2 ^ 23 + rneDiv n (d * 2 ^ (Nat.log2 (n / d) - 23)) ↔
      j ≤ rneDiv n (d * 2 ^ t) := by
  have hup := lt_pow_exponent n hd
  have hlow := pow_exponent_le n hd
  generalize Nat.log2 (n / d) - 23 = t₀ at *
  rcases Nat.lt_trichotomy t t₀ with h | rfl | h
  · have hge : 2 ^ 23 ≤ rneDiv n (d * 2 ^ t₀) := by
      refine le_rneDiv (by positivity) ?_
      calc 2 ^ 23 * (d * 2 ^ t₀) = 2 ^ (t₀ + 23) * d := by ring
        _ ≤ n := hlow (by omega)
    have hle : j ≤ rneDiv n (d * 2 ^ t) := by
      refine le_rneDiv (by positivity) ?_
      calc j * (d * 2 ^ t) ≤ 2 ^ 24 * (d * 2 ^ t) := Nat.mul_le_mul_right _ hhi
        _ = 2 ^ (t + 1 + 23) * d := by ring
        _ ≤ 2 ^ (t₀ + 23) * d :=
          Nat.mul_le_mul_right _ (Nat.pow_le_pow_right (by decide) (by omega))
        _ ≤ n := hlow (by omega)
    have : (t + 1) * 2 ^ 23 ≤ t₀ * 2 ^ 23 := Nat.mul_le_mul_right _ h
    exact iff_of_true (by omega) hle
  · omega
  · have hle : rneDiv n (d * 2 ^ t₀) ≤ 2 ^ 24 := by
      refine rneDiv_le (by positivity) (Nat.le_of_lt ?_)
      calc n < 2 ^ (t₀ + 24) * d := hup
        _ = 2 ^ 24 * (d * 2 ^ t₀) := by ring
    have hlt : rneDiv n (d * 2 ^ t) ≤ 2 ^ 23 := by
      refine rneDiv_le (by positivity) (Nat.le_of_lt ?_)
      calc n < 2 ^ (t₀ + 24) * d := hup
        _ ≤ 2 ^ (t + 23) * d := Nat.mul_le_mul_right _ (Nat.pow_le_pow_right (by decide) (by omega))
        _ = 2 ^ 23 * (d * 2 ^ t) := by ring
    have : (t₀ + 1) * 2 ^ 23 ≤ t * 2 ^ 23 := Nat.mul_le_mul_right _ h
    exact iff_of_false (by omega) (by omega)

/-- What rounding to a pattern is (R12): a pattern `k` above 0 is reached once the quotient is beyond
the midpoint between `k - 1` and `k`, and at that midpoint itself when `k` is even. -/
theorem le_roundUnits_iff {n d k : Nat} (hd : 0 < d) (hk : 0 < k) (hi : k ≤ infMag) :
    k ≤ roundUnits n d ↔
      (magUnits (k - 1) + magUnits k) * d < 2 * n ∨
      ((magUnits (k - 1) + magUnits k) * d = 2 * n ∧ k % 2 = 0) := by
  obtain ⟨t, j, rfl, hlo, hj, hhi⟩ := exists_block hk
  have hround : t * 2 ^ 23 + j ≤ roundUnits n d ↔ j ≤ rneDiv n (d * 2 ^ t) :=
    (le_min_iff.trans (and_iff_left hi)).trans (le_block_iff hd hlo hj hhi)
  have hpar : (t * 2 ^ 23 + j) % 2 = j % 2 := by omega
  rw [hround, le_rneDiv_iff (by positivity) hj, magUnits_midpoint hlo hj hhi, hpar,
    show (2 * j - 1) * (d * 2 ^ t) = (2 * j - 1) * 2 ^ t * d by ring]

/-- Different patterns are different values, in order. -/
theorem magUnits_strictMono {m₁ m₂ : Nat} (h : m₁ < m₂) (h₂ : m₂ ≤ infMag) :
    magUnits m₁ < magUnits m₂ := by
  refine Nat.lt_of_le_of_ne (magUnits_mono h.le h₂) fun heq => h.ne ?_
  rw [← roundUnits_magUnits Nat.one_pos (h.le.trans h₂), heq, roundUnits_magUnits Nat.one_pos h₂]

/-! #### Nearest, ties to even, on magnitudes -/

/-- No pattern above the rounded one is nearer, and one as near leaves the rounded one even. -/
theorem roundUnits_nearest_above {n d c : Nat} (hd : 0 < d) (hc : roundUnits n d < c)
    (hi : c ≤ infMag) :
    2 * n ≤ (magUnits (roundUnits n d) + magUnits c) * d ∧
    (2 * n = (magUnits (roundUnits n d) + magUnits c) * d → roundUnits n d % 2 = 0) := by
  have hnot := mt (le_roundUnits_iff (n := n) hd (Nat.succ_pos (roundUnits n d)) (by omega)).2
    (Nat.not_succ_le_self _)
  rw [Nat.succ_sub_one, Nat.succ_eq_add_one, not_or, not_lt, not_and] at hnot
  obtain ⟨hle, htie⟩ := hnot
  have hstep : (magUnits (roundUnits n d) + magUnits (roundUnits n d + 1)) * d ≤
      (magUnits (roundUnits n d) + magUnits c) * d :=
    Nat.mul_le_mul_right d (Nat.add_le_add_left (magUnits_mono hc hi) _)
  refine ⟨hle.trans hstep, fun heq => ?_⟩
  have := htie (by omega)
  omega

/-- No pattern below the rounded one is nearer, and one as near leaves the rounded one even. -/
theorem roundUnits_nearest_below {n d c : Nat} (hd : 0 < d) (hc : c < roundUnits n d) :
    (magUnits (roundUnits n d) + magUnits c) * d ≤ 2 * n ∧
    ((magUnits (roundUnits n d) + magUnits c) * d = 2 * n → roundUnits n d % 2 = 0) := by
  have hi := roundUnits_le n d
  have hreach := (le_roundUnits_iff hd (Nat.zero_lt_of_lt hc) hi).1 le_rfl
  have hstep : (magUnits (roundUnits n d) + magUnits c) * d ≤
      (magUnits (roundUnits n d - 1) + magUnits (roundUnits n d)) * d := by
    rw [Nat.add_comm]
    exact Nat.mul_le_mul_right d (Nat.add_le_add_right (magUnits_mono (by omega) (by omega)) _)
  omega

theorem coe_toNat_overflowUnits : (overflowUnits.toNat : Int) = overflowUnits := by decide +kernel

/-- The infinity is reached from half a last place above the largest finite value on. -/
theorem roundUnits_eq_infMag_iff {n d : Nat} (hd : 0 < d) :
    roundUnits n d = infMag ↔ overflowUnits.toNat * d ≤ n := by
  have hmid : magUnits (infMag - 1) + magUnits infMag = 2 * overflowUnits.toNat := by decide +kernel
  have h := le_roundUnits_iff (n := n) hd (k := infMag) (by decide) le_rfl
  rw [hmid, Nat.mul_assoc] at h
  have hle := roundUnits_le n d
  have hev : infMag % 2 = 0 := by decide
  constructor
  · intro heq
    have := h.1 heq.ge
    omega
  · intro hge
    exact Nat.le_antisymm hle (h.2 (by omega))

/-- A quotient of at most 2^100, counted in units, does not overflow. -/
theorem roundUnits_lt_infMag {n d : Nat} (hd : 0 < d) (h : n ≤ 2 ^ 249 * d) :
    roundUnits n d < infMag := by
  refine lt_of_le_of_ne (roundUnits_le n d) fun hinf => ?_
  have hover : 2 ^ 249 * d < overflowUnits.toNat * d :=
    Nat.mul_lt_mul_of_pos_right (by decide +kernel) hd
  exact absurd ((roundUnits_eq_infMag_iff hd).1 hinf) (not_le.2 (h.trans_lt hover))

/-- Of two points the lower is the nearer to `n` when `n` is not past their midpoint. -/
theorem abs_sub_le_abs_sub_iff {a c : Int} (h : a < c) (n : Int) :
    (|a - n| ≤ |c - n| ↔ 2 * n ≤ a + c) ∧ (|a - n| = |c - n| ↔ 2 * n = a + c) := by
  rcases abs_cases (a - n) with ⟨ha, ha'⟩ | ⟨ha, ha'⟩ <;>
    rcases abs_cases (c - n) with ⟨hc, hc'⟩ | ⟨hc, hc'⟩ <;> rw [ha, hc] <;> omega

/-- Distance to the exact quotient: the rounded pattern is at most as far from it as any other, and
even when another is as near. -/
theorem roundUnits_nearest {n d c : Nat} (hd : 0 < d) (hi : c ≤ infMag) :
    |(magUnits (roundUnits n d) * d : Int) - n| ≤ |(magUnits c * d : Int) - n| ∧
    (|(magUnits (roundUnits n d) * d : Int) - n| = |(magUnits c * d : Int) - n| →
      c = roundUnits n d ∨ roundUnits n d % 2 = 0) := by
  have hm := roundUnits_le n d
  rcases Nat.lt_trichotomy (roundUnits n d) c with h | h | h
  · obtain ⟨hle, htie⟩ := roundUnits_nearest_above hd h hi
    have hlt := Nat.mul_lt_mul_of_pos_right (magUnits_strictMono h hi) hd
    rw [Nat.add_mul] at hle htie
    zify at hle hlt htie
    obtain ⟨hnear, heq⟩ := abs_sub_le_abs_sub_iff hlt (n : Int)
    exact ⟨hnear.2 hle, fun he => .inr (mod_cast htie (heq.1 he))⟩
  · subst h
    exact ⟨le_rfl, fun _ => .inl rfl⟩
  · obtain ⟨hle, htie⟩ := roundUnits_nearest_below hd h
    have hlt := Nat.mul_lt_mul_of_pos_right (magUnits_strictMono h hm) hd
    rw [Nat.add_mul] at hle htie
    zify at hle hlt htie
    obtain ⟨hnear, heq⟩ := abs_sub_le_abs_sub_iff hlt (n : Int)
    omega

/-! #### Nearest, ties to even, on patterns -/

theorem fvalue_eq (w : Word) :
    fvalue w = if fsign w then -(magUnits (fmag w) : Int) else (magUnits (fmag w) : Int) := by
  rw [fvalue, funits_eq]

theorem fmag_le_infMag {w : Word} (h : isFinite w = true) : fmag w ≤ infMag := by
  simp only [isFinite, decide_eq_true_eq] at h
  exact h.le

theorem isFinite_packSign (s : Bool) {m : Nat} (h : m < 2 ^ 31) :
    isFinite (packSign s m) = true ↔ m < infMag := by
  rw [isFinite, fmag_packSign s h, decide_eq_true_eq]

theorem isInf_packSign (s : Bool) {m : Nat} (h : m < 2 ^ 31) :
    isInf (packSign s m) = true ↔ m = infMag := by
  rw [isInf, fmag_packSign s h, beq_iff_eq]

/-- The lowest bit of a pattern is that of its magnitude. -/
theorem packSign_even (s : Bool) {m : Nat} (h : m < 2 ^ 31) (hev : m % 2 = 0) :
    (packSign s m).getLsbD 0 = false := by
  rw [BitVec.getLsbD, toNat_packSign s h, Nat.testBit_zero, decide_eq_false_iff_not]
  cases s <;> simp <;> omega

theorem abs_signed_sub (s : Bool) (x d n : Int) :
    |(if s then -x else x) * d - (if s then -n else n)| = |x * d - n| := by
  cases s
  · rfl
  · rw [← abs_neg (x * d - n)]
    congr 1
    simp only [if_true]
    ring

theorem abs_signed_sub_of_ne {s s' : Bool} (h : s' ≠ s) (x d n : Int) :
    |(if s' then -x else x) * d - (if s then -n else n)| = |x * d + n| := by
  obtain rfl : s' = !s := Bool.eq_not.2 h
  cases s
  · rw [← abs_neg (x * d + n)]
    congr 1
    simp
    ring
  · simp

/-- A magnitude rounded with the sign of the exact value is that value rounded to nearest, ties to
even (R12). -/
theorem roundsTo_packSign {s : Bool} {n d : Nat} {num den : Int} (hd : 0 < d) (hden : den = d)
    (hnum : num = if s then -(n : Int) else n) :
    RoundsTo (packSign s (roundUnits n d)) num den := by
  subst hden
  have hm := roundUnits_lt n d
  have hover : |num| < overflowUnits * d ↔ roundUnits n d ≠ infMag := by
    have habs : |num| = n := by cases s <;> simp [hnum]
    rw [Ne, roundUnits_eq_infMag_iff hd, habs, ← coe_toNat_overflowUnits, not_le]
    norm_cast
  rw [RoundsTo]
  rcases lt_or_ge |num| (overflowUnits * d) with hlt | hge
  · rw [if_pos hlt]
    have hfin := lt_of_le_of_ne (roundUnits_le n d) (hover.1 hlt)
    refine ⟨(isFinite_packSign s hm).2 hfin, fun c hc => ?_⟩
    obtain ⟨hnear, htie⟩ := roundUnits_nearest (n := n) hd (fmag_le_infMag hc)
    rw [fvalue_eq, fvalue_eq, fsign_packSign s hm, fmag_packSign s hm, hnum, abs_signed_sub]
    by_cases hs : fsign c = s
    · rw [hs, abs_signed_sub]
      exact ⟨hnear, fun heq => (htie heq).imp (fun h => by rw [h]) (packSign_even s hm)⟩
    · obtain ⟨hnear₀, htie₀⟩ := roundUnits_nearest (n := n) hd (Nat.zero_le infMag)
      have hzero : |(magUnits 0 * d : Int) - n| = n := by simp [magUnits]
      have hopp : |(magUnits (fmag c) * d : Int) + n| = magUnits (fmag c) * d + n :=
        abs_of_nonneg (by positivity)
      have hpos : 0 ≤ (magUnits (fmag c) * d : Int) := by positivity
      rw [abs_signed_sub_of_ne hs, hopp]
      rw [hzero] at hnear₀ htie₀
      refine ⟨by omega, fun heq => .inr (packSign_even s hm ?_)⟩
      have := htie₀ (by omega)
      omega
  · rw [if_neg (not_lt.2 hge)]
    have hinf : roundUnits n d = infMag := not_not.1 (mt hover.2 (not_lt.2 hge))
    have hpos : 0 < n :=
      (Nat.mul_pos (by decide +kernel) hd).trans_le ((roundUnits_eq_infMag_iff hd).1 hinf)
    refine ⟨(isInf_packSign s hm).2 hinf, ?_⟩
    rw [fsign_packSign s hm, hnum]
    cases s <;> simp [hpos]

/-! #### The basic operations (R12) -/

/-- The sum is the exact sum's magnitude, rounded, with the exact sum's sign; a zero has either. -/
theorem fadd_eq_packSign {a b : Word} (ha : isFinite a = true) (hb : isFinite b = true) :
    ∃ (s : Bool) (n : Nat), fadd a b = packSign s (roundUnits n 1) ∧
      fvalue a + fvalue b = if s then -(n : Int) else n := by
  rw [fadd_finite ha hb]
  split
  case isTrue h0 => exact ⟨_, 0, by rw [roundUnits_zero], by simp [h0]⟩
  case isFalse h0 =>
    refine ⟨_, _, rfl, ?_⟩
    simp only [decide_eq_true_eq]
    split <;> omega

theorem fadd_roundsTo {a b : Word} (ha : isFinite a = true) (hb : isFinite b = true) :
    RoundsTo (fadd a b) (fvalue a + fvalue b) 1 := by
  obtain ⟨s, n, hadd, hval⟩ := fadd_eq_packSign ha hb
  rw [hadd]
  exact roundsTo_packSign Nat.one_pos Nat.cast_one.symm hval

theorem fmul_roundsTo {a b : Word} (ha : isFinite a = true) (hb : isFinite b = true) :
    RoundsTo (fmul a b) (fvalue a * fvalue b) (2 ^ 149) := by
  rw [fmul_finite ha hb]
  refine roundsTo_packSign (by positivity) (by norm_cast) ?_
  cases hsa : fsign a <;> cases hsb : fsign b <;> simp [fvalue, hsa, hsb]

/-- A zero pattern is worth 0. -/
theorem funits_eq_zero {w : Word} (h : fmag w = 0) : funits w = 0 := by
  rw [funits_eq, h]
  rfl

theorem fvalue_eq_zero {w : Word} (h : fmag w = 0) : fvalue w = 0 := by
  simp [fvalue, funits_eq_zero h]

theorem funits_pos_of_fvalue {w : Word} (h : fvalue w ≠ 0) : 0 < funits w := by
  refine Nat.pos_of_ne_zero fun h0 => h ?_
  simp [fvalue, h0]

theorem fdiv_roundsTo {a b : Word} (ha : isFinite a = true) (hb : isFinite b = true)
    (h0 : fvalue b ≠ 0) :
    RoundsTo (fdiv a b) ((if fsign b then -fvalue a else fvalue a) * 2 ^ 149) (funits b) := by
  rw [fdiv_finite ha hb (mt fvalue_eq_zero h0)]
  refine roundsTo_packSign (funits_pos_of_fvalue h0) rfl ?_
  cases hsa : fsign a <;> cases fsign b <;> simp [fvalue, hsa]

/-- Settles O36: the exact sum is an integer of units, rounded once; subtraction adds the negation. -/
theorem addAndSubtractRoundToNearest : Obligations.AddAndSubtractRoundToNearest := by
  intro a b ha hb
  refine ⟨fadd_roundsTo ha hb, ?_, fun h0 => ?_⟩
  · rw [fsub_finite ha hb, Int.sub_eq_add_neg, ← fvalue_fneg]
    exact fadd_roundsTo ha ((isFinite_fneg b).trans hb)
  · rw [fadd_finite ha hb, if_pos h0, fsign_packSign _ (by decide)]

/-- Settles O37: the exact product and quotient are quotients of integers of units, rounded once. -/
theorem multiplyAndDivideRoundToNearest : Obligations.MultiplyAndDivideRoundToNearest := by
  intro a b ha hb
  refine ⟨fmul_roundsTo ha hb, ?_, fun h0 => ⟨fdiv_roundsTo ha hb h0, ?_⟩⟩
  · rw [fmul_finite ha hb, fsign_packSign _ (roundUnits_lt _ _)]
  · rw [fdiv_finite ha hb (mt fvalue_eq_zero h0), fsign_packSign _ (roundUnits_lt _ _)]

end Sys2Proof.Machine
end

section
/-! ### Roots: an integer root found bit by bit, with one sticky bit, rounds as the real root does -/

namespace Sys2Proof.Machine

/-! #### The integer root -/

/-- `r` is the integer part of the `e`-th root of `n`. -/
def IntRoot (e n r : Nat) : Prop := r ^ e ≤ n ∧ n < (r + 1) ^ e

/-- The search of `isqrtFrom` and of `Ref.icbrtFrom`, for any degree. -/
def rootFrom (e n : Nat) : Nat → Nat → Nat
  | 0, acc => acc
  | k + 1, acc => rootFrom e n k (if (acc + 2 ^ k) ^ e ≤ n then acc + 2 ^ k else acc)

theorem isqrtFrom_eq_rootFrom (n k acc : Nat) : isqrtFrom n k acc = rootFrom 2 n k acc := by
  induction k generalizing acc with
  | zero => rfl
  | succ k ih => rw [isqrtFrom, rootFrom, ih, sq]

theorem icbrtFrom_eq_rootFrom (n k acc : Nat) : Ref.icbrtFrom n k acc = rootFrom 3 n k acc := by
  induction k generalizing acc with
  | zero => rfl
  | succ k ih => rw [Ref.icbrtFrom, rootFrom, ih]

/-- The search keeps the root between `acc` and `acc + 2^k`. -/
theorem rootFrom_intRoot {e n k acc : Nat} (hlo : acc ^ e ≤ n) (hhi : n < (acc + 2 ^ k) ^ e) :
    IntRoot e n (rootFrom e n k acc) := by
  induction k generalizing acc with
  | zero => exact ⟨hlo, hhi⟩
  | succ k ih =>
    rw [rootFrom]
    split
    case isTrue h => exact ih h (by rwa [Nat.add_assoc, ← Nat.two_mul, ← Nat.pow_succ'])
    case isFalse h => exact ih hlo (not_le.1 h)

theorem IntRoot.lt {e n r b : Nat} (h : IntRoot e n r) (hb : n < b ^ e) : r < b :=
  lt_of_pow_lt_pow_left₀ e (Nat.zero_le b) (h.1.trans_lt hb)

theorem IntRoot.le {e n r b : Nat} (h : IntRoot e n r) (hb : b ^ e ≤ n) : b ≤ r :=
  Nat.le_of_lt_succ (lt_of_pow_lt_pow_left₀ e (Nat.zero_le _) (hb.trans_lt h.2))

/-! #### Rounding it -/

/-- The root in half units: twice its integer part, plus 1 when it is not exact. -/
def stickyRoot (e n r : Nat) : Nat := 2 * r + if r ^ e = n then 0 else 1

/-- A whole number is at or past the root as twice it is at or past the root with its sticky bit. -/
theorem IntRoot.le_pow {e n r h : Nat} (hr : IntRoot e n r) (hle : stickyRoot e n r ≤ 2 * h) :
    n ≤ h ^ e ∧ (n = h ^ e → stickyRoot e n r = 2 * h) := by
  obtain ⟨hlo, hhi⟩ := hr
  unfold stickyRoot at *
  split at hle
  case isTrue hex =>
    have hrh : r ^ e ≤ h ^ e := Nat.pow_le_pow_left (by omega) e
    refine ⟨by omega, fun heq => ?_⟩
    have : h < r + 1 := lt_of_pow_lt_pow_left₀ e (Nat.zero_le _) (heq ▸ hhi)
    rw [if_pos hex]
    omega
  case isFalse hne =>
    have : (r + 1) ^ e ≤ h ^ e := Nat.pow_le_pow_left (by omega) e
    omega

theorem IntRoot.pow_le {e n r h : Nat} (hr : IntRoot e n r) (hle : 2 * h ≤ stickyRoot e n r)
    (he : e ≠ 0) : h ^ e ≤ n ∧ (h ^ e = n → stickyRoot e n r = 2 * h) := by
  have hhr : h ≤ r := by
    unfold stickyRoot at hle
    split at hle <;> omega
  have hpow : h ^ e ≤ r ^ e := Nat.pow_le_pow_left hhr e
  refine ⟨hpow.trans hr.1, fun heq => ?_⟩
  have hex : r ^ e = n := le_antisymm hr.1 (heq ▸ hpow)
  have : h = r := Nat.pow_left_injective he (heq.trans hex.symm)
  rw [stickyRoot, if_pos hex, this, Nat.add_zero]

/-- From the second block of spacing 2 on, values are even, so that midpoints are whole. -/
theorem two_dvd_magUnits {m : Nat} (h : 2 ^ 24 ≤ m) : 2 ∣ magUnits m :=
  Dvd.dvd.mul_left (dvd_pow_self 2 (by omega)) _

/-- A root of at least `2^25` rounds to a pattern whose neighbours' values are all even. -/
theorem lt_roundUnits_stickyRoot {e n r : Nat} (hbig : 2 ^ 25 ≤ r) :
    2 ^ 24 < roundUnits (stickyRoot e n r) 2 := by
  have hval : magUnits (2 ^ 24 + 1) * 2 = 2 ^ 25 + 4 := by decide
  refine le_roundUnits_of_le (m := 2 ^ 24 + 1) two_pos (by decide) ?_
  rw [hval, stickyRoot]
  omega

/-- No value above the rounded root is nearer the root: it is past the midpoint to it, or at the
midpoint of an even pattern. -/
theorem IntRoot.nearest_above {e n r c : Nat} (hr : IntRoot e n r) (hbig : 2 ^ 25 ≤ r)
    (hc : roundUnits (stickyRoot e n r) 2 < c) (hi : c ≤ infMag) :
    2 ^ e * n ≤ (magUnits (roundUnits (stickyRoot e n r) 2) + magUnits c) ^ e ∧
    (2 ^ e * n = (magUnits (roundUnits (stickyRoot e n r) 2) + magUnits c) ^ e →
      roundUnits (stickyRoot e n r) 2 % 2 = 0) := by
  have hm := lt_roundUnits_stickyRoot (e := e) (n := n) hbig
  obtain ⟨hnear, htie⟩ := roundUnits_nearest_above (n := stickyRoot e n r) two_pos
    (Nat.lt_succ_self _) (hc.trans_le hi)
  have hmono := magUnits_mono (Nat.succ_le_of_lt hc) hi
  generalize roundUnits (stickyRoot e n r) 2 = m at *
  obtain ⟨h, hh⟩ := Nat.dvd_add (two_dvd_magUnits hm.le) (two_dvd_magUnits (hm.le.trans m.le_succ))
  obtain ⟨hle, heq⟩ := hr.le_pow (h := h) (by omega)
  have hpow : 2 ^ e * h ^ e ≤ (magUnits m + magUnits c) ^ e := by
    rw [← Nat.mul_pow]
    exact Nat.pow_le_pow_left (by omega) e
  refine ⟨(Nat.mul_le_mul_left _ hle).trans hpow, fun hmid => ?_⟩
  have hroot : n = h ^ e := le_antisymm hle
    (Nat.le_of_mul_le_mul_left (hmid ▸ hpow) (Nat.two_pow_pos e))
  have := heq hroot
  exact htie (by omega)

/-- No value below the rounded root is nearer the root. -/
theorem IntRoot.nearest_below {e n r c : Nat} (hr : IntRoot e n r) (he : e ≠ 0) (hbig : 2 ^ 25 ≤ r)
    (hc : c < roundUnits (stickyRoot e n r) 2) :
    (magUnits (roundUnits (stickyRoot e n r) 2) + magUnits c) ^ e ≤ 2 ^ e * n ∧
    ((magUnits (roundUnits (stickyRoot e n r) 2) + magUnits c) ^ e = 2 ^ e * n →
      roundUnits (stickyRoot e n r) 2 % 2 = 0) := by
  have hm := lt_roundUnits_stickyRoot (e := e) (n := n) hbig
  obtain ⟨hnear, htie⟩ := roundUnits_nearest_below (n := stickyRoot e n r) two_pos
    (Nat.sub_one_lt_of_lt hc)
  have hmono := magUnits_mono (Nat.le_sub_one_of_lt hc)
    ((Nat.sub_le _ 1).trans (roundUnits_le (stickyRoot e n r) 2))
  generalize roundUnits (stickyRoot e n r) 2 = m at *
  obtain ⟨h, hh⟩ := Nat.dvd_add (two_dvd_magUnits hm.le) (two_dvd_magUnits (Nat.le_sub_one_of_lt hm))
  obtain ⟨hle, heq⟩ := hr.pow_le (h := h) (by omega) he
  have hpow : (magUnits m + magUnits c) ^ e ≤ 2 ^ e * h ^ e := by
    rw [← Nat.mul_pow]
    exact Nat.pow_le_pow_left (by omega) e
  refine ⟨hpow.trans (Nat.mul_le_mul_left _ hle), fun hmid => ?_⟩
  have hroot : h ^ e = n := le_antisymm hle
    (Nat.le_of_mul_le_mul_left (hmid ▸ hpow) (Nat.two_pow_pos e))
  have := heq hroot
  exact htie (by omega)

theorem roundUnits_stickyRoot_lt_infMag {e n r : Nat} (h : r < 2 ^ 214) :
    roundUnits (stickyRoot e n r) 2 < infMag := by
  have hbig : 2 * 2 ^ 214 ≤ 2 ^ 249 := by decide +kernel
  refine roundUnits_lt_infMag two_pos ?_
  rw [stickyRoot]
  split <;> omega

/-- On patterns: a rounded root is finite and above 0, and no other finite value above 0 is nearer
the root; a tie leaves the even pattern. -/
theorem IntRoot.packSign_nearest {e n r : Nat} (hr : IntRoot e n r) (he : e ≠ 0) (hlo : 2 ^ 25 ≤ r)
    (hhi : r < 2 ^ 214) {w : Word} (hw : w = packSign false (roundUnits (stickyRoot e n r) 2)) :
    isFinite w = true ∧ fsign w = false ∧
    ∀ c, isFinite c = true → fsign c = false →
      (funits w < funits c →
        2 ^ e * n ≤ (funits w + funits c) ^ e ∧
        (2 ^ e * n = (funits w + funits c) ^ e → w.getLsbD 0 = false)) ∧
      (funits c < funits w →
        (funits w + funits c) ^ e ≤ 2 ^ e * n ∧
        ((funits w + funits c) ^ e = 2 ^ e * n → w.getLsbD 0 = false)) := by
  have hm := roundUnits_lt (stickyRoot e n r) 2
  have hw' : funits w = magUnits (roundUnits (stickyRoot e n r) 2) := by
    rw [hw, funits_eq, fmag_packSign _ hm]
  refine ⟨hw ▸ (isFinite_packSign _ hm).2 (roundUnits_stickyRoot_lt_infMag hhi), hw ▸ fsign_packSign _ hm,
    fun c hc _ => ?_⟩
  have hi := fmag_le_infMag hc
  have heven := packSign_even false hm
  rw [← hw] at heven
  rw [hw', funits_eq c]
  refine ⟨fun h => ?_, fun h => ?_⟩
  · have hlt := lt_of_not_ge fun hge => (magUnits_mono hge (roundUnits_le _ 2)).not_gt h
    exact (hr.nearest_above hlo hlt hi).imp id fun htie heq => heven (htie heq)
  · have hlt := lt_of_not_ge fun hge => (magUnits_mono hge hi).not_gt h
    exact (hr.nearest_below he hlo hlt).imp id fun htie heq => heven (htie heq)

/-! #### The square root and the reference cube root -/

theorem funits_lt {w : Word} (h : isFinite w = true) : funits w < 2 ^ 277 := by
  have htop : magUnits infMag = 2 ^ 277 := by decide +kernel
  rw [funits_eq, ← htop]
  rw [isFinite, decide_eq_true_eq] at h
  exact magUnits_strictMono h le_rfl

theorem funits_pos {w : Word} (h : fmag w ≠ 0) (hw : isFinite w = true) : 0 < funits w := by
  have h0 : magUnits 0 = 0 := by decide
  rw [funits_eq]
  exact h0 ▸ magUnits_strictMono (Nat.pos_of_ne_zero h) (fmag_le_infMag hw)

/-- The root in units of a finite value above 0, searched from bit `k` down, rounds to nearest. -/
theorem rootFrom_nearest {a w : Word} {e s k : Nat} (ha : isFinite a = true) (h0 : fmag a ≠ 0)
    (he : e ≠ 0) (hlo : 25 * e ≤ s) (hhi : 277 + s ≤ k * e) (hk : k ≤ 214)
    (hw : w = packSign false
      (roundUnits (stickyRoot e (funits a * 2 ^ s) (rootFrom e (funits a * 2 ^ s) k 0)) 2)) :
    isFinite w = true ∧ fsign w = false ∧
    ∀ c, isFinite c = true → fsign c = false →
      (funits w < funits c →
        2 ^ e * (funits a * 2 ^ s) ≤ (funits w + funits c) ^ e ∧
        (2 ^ e * (funits a * 2 ^ s) = (funits w + funits c) ^ e → w.getLsbD 0 = false)) ∧
      (funits c < funits w →
        (funits w + funits c) ^ e ≤ 2 ^ e * (funits a * 2 ^ s) ∧
        ((funits w + funits c) ^ e = 2 ^ e * (funits a * 2 ^ s) → w.getLsbD 0 = false)) := by
  have hsmall : funits a * 2 ^ s < (2 ^ k) ^ e :=
    calc funits a * 2 ^ s < 2 ^ 277 * 2 ^ s :=
          Nat.mul_lt_mul_of_pos_right (funits_lt ha) (by positivity)
      _ = 2 ^ (277 + s) := (pow_add 2 277 s).symm
      _ ≤ 2 ^ (k * e) := Nat.pow_le_pow_right two_pos hhi
      _ = (2 ^ k) ^ e := pow_mul 2 k e
  have hbig : (2 ^ 25) ^ e ≤ funits a * 2 ^ s :=
    calc (2 ^ 25) ^ e = 2 ^ (25 * e) := (pow_mul 2 25 e).symm
      _ ≤ 2 ^ s := Nat.pow_le_pow_right two_pos hlo
      _ ≤ funits a * 2 ^ s := Nat.le_mul_of_pos_left _ (funits_pos h0 ha)
  have hr : IntRoot e (funits a * 2 ^ s) (rootFrom e (funits a * 2 ^ s) k 0) :=
    rootFrom_intRoot (by simp [he]) (by rwa [Nat.zero_add])
  exact hr.packSign_nearest he (hr.le hbig)
    ((hr.lt hsmall).trans_le (Nat.pow_le_pow_right two_pos hk)) hw

theorem fsqrt_zero {a : Word} (h : fmag a = 0) : fsqrt a = a := by
  simp [fsqrt, isNaN, h]

theorem fsqrt_finite {a : Word} (ha : isFinite a = true) (hs : fsign a = false) (h0 : fmag a ≠ 0) :
    fsqrt a = packSign false (roundUnits
      (stickyRoot 2 (funits a * 2 ^ 149) (rootFrom 2 (funits a * 2 ^ 149) 214 0)) 2) := by
  simp only [fsqrt, not_nan_of_finite ha, not_inf_of_finite ha, hs, h0, isqrtFrom_eq_rootFrom,
    stickyRoot, sq, if_false, Bool.false_eq_true]

theorem cbrt_finite {x : Word} (hx : isFinite x = true) :
    Ref.cbrt x = packSign (fsign x) (roundUnits
      (stickyRoot 3 (funits x * 2 ^ 298) (rootFrom 3 (funits x * 2 ^ 298) 192 0)) 2) := by
  simp only [Ref.cbrt, hx, icbrtFrom_eq_rootFrom, stickyRoot, Bool.not_true, Bool.false_eq_true,
    if_false]

/-- Above 0 are the values with sign 0 and a magnitude. -/
theorem pos_of_flt_zero {x : Word} (h : flt cZero x = true) : fsign x = false ∧ fmag x ≠ 0 := by
  have hz : fkey cZero = 0 := by decide
  rw [flt, Bool.and_eq_true, decide_eq_true_eq, hz, fkey] at h
  cases hs : fsign x
  · exact ⟨rfl, fun h0 => by simp [hs, h0] at h⟩
  · simp [hs] at h
    omega

/-- Settles O38: the square root of a zero is that zero; another is the integer root with a sticky
bit, rounded. -/
theorem squareRootRoundsToNearest : Obligations.SquareRootRoundsToNearest := by
  intro a ha hs
  by_cases h0 : fmag a = 0
  · rw [fsqrt_zero h0, funits_eq_zero h0]
    refine ⟨ha, hs, fun c _ _ => ⟨fun h => ?_, fun h => absurd h (Nat.not_lt_zero _)⟩⟩
    rw [Nat.zero_mul, Nat.mul_zero, Nat.zero_add]
    exact ⟨Nat.zero_le _, fun heq => absurd heq (pow_pos h 2).ne⟩
  · exact rootFrom_nearest (e := 2) ha h0 two_ne_zero (by decide) (by decide) le_rfl
      (fsqrt_finite ha hs h0)

/-- Settles O60: the cube root is the integer root with a sticky bit, rounded. -/
theorem referenceCubeRootIsNearest : Obligations.ReferenceCubeRootIsNearest := by
  intro x hx hpos
  obtain ⟨hs, h0⟩ := pos_of_flt_zero hpos
  have hroot := hs ▸ cbrt_finite hx
  obtain ⟨hfin, hsign, hnear⟩ :=
    rootFrom_nearest (e := 3) hx h0 three_ne_zero (by decide) (by decide) (by decide) hroot
  exact ⟨hfin, hsign, fun c hc hcs => (hnear c hc hcs).imp (fun h hlt => (h hlt).1)
    (fun h hlt => (h hlt).1)⟩

end Sys2Proof.Machine
end

section
/-! ### The power: relative error of the table method (41_fast_power.md R114) -/

namespace Sys2Proof.Machine

/-! #### Values and rounding errors -/

/-- The value of a finite pattern. -/
def val (w : Word) : ℚ := fvalue w / 2 ^ 149

/-- A finite pattern within `δ` of a value. -/
def Near (δ : ℚ) (w : Word) (x : ℚ) : Prop := isFinite w = true ∧ |val w - x| ≤ δ

/-- The nearest integer is at most half a unit away. -/
theorem rneDiv_error (n : Nat) {d : Nat} (hd : 0 < d) :
    |(rneDiv n d * d : ℚ) - n| ≤ d / 2 := by
  have hmod : n % d < d := Nat.mod_lt n hd
  have hdiv : n / d * d + n % d = n := Nat.div_add_mod' n d
  have hbounds : 2 * (rneDiv n d * d) ≤ 2 * n + d ∧ 2 * n ≤ 2 * (rneDiv n d * d) + d := by
    have hsucc : (n / d + 1) * d = n / d * d + d := by ring
    unfold rneDiv
    split
    · omega
    · split
      · omega
      · rcases Nat.mod_two_eq_zero_or_one (n / d) with h | h
        · rw [h, Nat.add_zero]
          omega
        · rw [h]
          omega
  obtain ⟨hle, hge⟩ := hbounds
  have hle' : (2 * (rneDiv n d * d) : ℚ) ≤ 2 * n + d := by exact_mod_cast hle
  have hge' : (2 * n : ℚ) ≤ 2 * (rneDiv n d * d) + d := by exact_mod_cast hge
  rw [abs_le]
  constructor <;> linarith

/-- A quotient that does not overflow is rounded with a relative error of 2^-24, or in the subnormal
range an absolute one of half a unit. -/
theorem roundUnits_error {n d : Nat} (hd : 0 < d) (hfin : roundUnits n d ≠ infMag) :
    |(magUnits (roundUnits n d) * d : ℚ) - n| ≤ n / 2 ^ 24 + d / 2 := by
  have hup := lt_pow_exponent n hd
  have hlow := pow_exponent_le n hd
  unfold roundUnits at *
  simp only at *
  generalize Nat.log2 (n / d) - 23 = t at *
  have hD : 0 < d * 2 ^ t := by positivity
  have hround := min_eq_left (le_of_not_ge fun h => hfin (min_eq_right h))
  have hhi : rneDiv n (d * 2 ^ t) ≤ 2 ^ 24 := by
    refine rneDiv_le hD (Nat.le_of_lt ?_)
    calc n < 2 ^ (t + 24) * d := hup
      _ = 2 ^ 24 * (d * 2 ^ t) := by ring
  have hlo : t = 0 ∨ 2 ^ 23 ≤ rneDiv n (d * 2 ^ t) := by
    refine t.eq_zero_or_pos.imp_right fun ht => le_rneDiv hD ?_
    calc 2 ^ 23 * (d * 2 ^ t) = 2 ^ (t + 23) * d := by ring
      _ ≤ n := hlow ht
  have herr := rneDiv_error n hD
  have hspacing : ((d * 2 ^ t : Nat) : ℚ) / 2 ≤ n / 2 ^ 24 + d / 2 := by
    rcases t.eq_zero_or_pos with rfl | ht
    · simp
      positivity
    · have h : (2 ^ (t + 23) * d : ℚ) ≤ n := by exact_mod_cast hlow ht
      have hd' : (0 : ℚ) ≤ d := by positivity
      rw [pow_add] at h
      push_cast
      linarith
  rw [hround, magUnits_block hlo hhi]
  refine le_trans (le_of_eq ?_) (herr.trans hspacing)
  push_cast
  congr 1
  ring

/-- An exact result `x` below 2^100, rounded with its sign. -/
theorem near_packSign {s : Bool} {n d : Nat} {x : ℚ} (hd : 0 < d)
    (hx : x * (2 ^ 149 * d) = if s then -(n : ℚ) else n) (hfit : |x| ≤ 2 ^ 100) :
    Near (|x| / 2 ^ 24 + 1 / 2 ^ 150) (packSign s (roundUnits n d)) x := by
  have hd' : (0 : ℚ) < d := by exact_mod_cast hd
  have hn : (n : ℚ) = |x| * (2 ^ 149 * d) := by
    have h := congrArg abs hx
    rw [abs_mul, abs_of_pos (by positivity : (0 : ℚ) < 2 ^ 149 * d)] at h
    rw [h]
    cases s <;> simp
  have hfin : roundUnits n d < infMag := by
    refine roundUnits_lt_infMag hd ?_
    have h : (n : ℚ) ≤ 2 ^ 249 * d :=
      calc (n : ℚ) = |x| * (2 ^ 149 * d) := hn
        _ ≤ 2 ^ 100 * (2 ^ 149 * d) := by gcongr
        _ = 2 ^ 249 * d := by ring
    exact_mod_cast h
  have hm := roundUnits_lt n d
  have herr := roundUnits_error hd hfin.ne
  refine ⟨(isFinite_packSign s hm).2 hfin, ?_⟩
  have hval : (val (packSign s (roundUnits n d)) - x) * (2 ^ 149 * d) =
      if s then -(magUnits (roundUnits n d) * d - n : ℚ) else magUnits (roundUnits n d) * d - n := by
    rw [sub_mul, hx, val, fvalue_eq, fsign_packSign s hm, fmag_packSign s hm]
    cases s <;> simp <;> ring
  have habs : |val (packSign s (roundUnits n d)) - x| * (2 ^ 149 * d) ≤ n / 2 ^ 24 + d / 2 := by
    rw [← abs_of_pos (by positivity : (0 : ℚ) < 2 ^ 149 * d), ← abs_mul, hval]
    cases s
    · simpa using herr
    · simpa [abs_sub_comm] using herr
  rw [hn] at habs
  refine le_of_mul_le_mul_right (habs.trans_eq ?_) (by positivity : (0 : ℚ) < 2 ^ 149 * d)
  ring

theorem fmul_near {a b : Word} (ha : isFinite a = true) (hb : isFinite b = true)
    (hfit : |val a * val b| ≤ 2 ^ 100) :
    Near (|val a * val b| / 2 ^ 24 + 1 / 2 ^ 150) (fmul a b) (val a * val b) := by
  rw [fmul_finite ha hb]
  refine near_packSign (by positivity) ?_ hfit
  cases hsa : fsign a <;> cases hsb : fsign b <;> simp [val, fvalue, hsa, hsb] <;> ring

theorem fadd_near {a b : Word} (ha : isFinite a = true) (hb : isFinite b = true)
    (hfit : |val a + val b| ≤ 2 ^ 100) :
    Near (|val a + val b| / 2 ^ 24 + 1 / 2 ^ 150) (fadd a b) (val a + val b) := by
  obtain ⟨s, n, hadd, hval⟩ := fadd_eq_packSign ha hb
  have hval' : (fvalue a + fvalue b : ℚ) = if s then -(n : ℚ) else n := by exact_mod_cast hval
  rw [hadd]
  refine near_packSign Nat.one_pos ?_ hfit
  rw [← hval', val, val, Nat.cast_one]
  ring

theorem val_fneg (w : Word) : val (fneg w) = -val w := by
  rw [val, fvalue_fneg, val]
  push_cast
  ring

/-! #### Errors of operands carried through an operation -/

theorem Near.le {δ ε x : ℚ} {w : Word} (h : Near δ w x) (hle : δ ≤ ε) : Near ε w x :=
  ⟨h.1, h.2.trans hle⟩

theorem Near.trans {δ ε x y : ℚ} {w : Word} (h : Near δ w x) (hxy : |x - y| ≤ ε) :
    Near (δ + ε) w y :=
  ⟨h.1, (abs_sub_le _ x _).trans (add_le_add h.2 hxy)⟩

theorem Near.abs_val_le {δ x X : ℚ} {w : Word} (h : Near δ w x) (hX : |x| ≤ X) : |val w| ≤ X + δ :=
  calc |val w| = |x + (val w - x)| := by congr 1; ring
    _ ≤ |x| + |val w - x| := abs_add_le _ _
    _ ≤ X + δ := add_le_add hX h.2

theorem Near.mul {a b : Word} {δ ε x y X Y : ℚ} (ha : Near δ a x) (hb : Near ε b y) (hX : |x| ≤ X)
    (hY : |y| ≤ Y) (hfit : (X + δ) * (Y + ε) ≤ 2 ^ 100) :
    Near ((X + δ) * (Y + ε) / 2 ^ 24 + 1 / 2 ^ 150 + (δ * (Y + ε) + X * ε)) (fmul a b) (x * y) := by
  have hδ := (abs_nonneg _).trans ha.2
  have hX0 := (abs_nonneg _).trans hX
  have hbabs := hb.abs_val_le hY
  have hab : |val a * val b| ≤ (X + δ) * (Y + ε) := by
    rw [abs_mul]
    exact mul_le_mul (ha.abs_val_le hX) hbabs (abs_nonneg _) (add_nonneg hX0 hδ)
  have hop : |val a * val b - x * y| ≤ δ * (Y + ε) + X * ε :=
    calc |val a * val b - x * y| = |(val a - x) * val b + x * (val b - y)| := by congr 1; ring
      _ ≤ |val a - x| * |val b| + |x| * |val b - y| := by
        rw [← abs_mul, ← abs_mul]
        exact abs_add_le _ _
      _ ≤ δ * (Y + ε) + X * ε :=
        add_le_add (mul_le_mul ha.2 hbabs (abs_nonneg _) hδ) (mul_le_mul hX hb.2 (abs_nonneg _) hX0)
  refine ((fmul_near ha.1 hb.1 (hab.trans hfit)).le ?_).trans hop
  gcongr

theorem Near.add {a b : Word} {δ ε x y S : ℚ} (ha : Near δ a x) (hb : Near ε b y) (hS : |x + y| ≤ S)
    (hfit : S + (δ + ε) ≤ 2 ^ 100) :
    Near ((S + (δ + ε)) / 2 ^ 24 + 1 / 2 ^ 150 + (δ + ε)) (fadd a b) (x + y) := by
  have hop : |val a + val b - (x + y)| ≤ δ + ε :=
    calc |val a + val b - (x + y)| = |(val a - x) + (val b - y)| := by congr 1; ring
      _ ≤ δ + ε := (abs_add_le _ _).trans (add_le_add ha.2 hb.2)
  have hab : |val a + val b| ≤ S + (δ + ε) :=
    calc |val a + val b| = |(x + y) + (val a + val b - (x + y))| := by congr 1; ring
      _ ≤ S + (δ + ε) := (abs_add_le _ _).trans (add_le_add hS hop)
  refine ((fadd_near ha.1 hb.1 (hab.trans hfit)).le ?_).trans hop
  gcongr

theorem Near.neg {b : Word} {ε y : ℚ} (hb : Near ε b y) : Near ε (fneg b) (-y) := by
  refine ⟨(isFinite_fneg b).trans hb.1, ?_⟩
  rw [val_fneg, neg_sub_neg, abs_sub_comm]
  exact hb.2

theorem Near.sub {a b : Word} {δ ε x y S : ℚ} (ha : Near δ a x) (hb : Near ε b y) (hS : |x - y| ≤ S)
    (hfit : S + (δ + ε) ≤ 2 ^ 100) :
    Near ((S + (δ + ε)) / 2 ^ 24 + 1 / 2 ^ 150 + (δ + ε)) (fsub a b) (x - y) := by
  rw [fsub_finite ha.1 hb.1, sub_eq_add_neg]
  exact ha.add hb.neg (by rwa [← sub_eq_add_neg]) hfit

/-! #### Relative errors: bounds on a quotient, which multiply -/

/-- `a` lies between `l` and `u` times `b`. -/
def Between (l u a b : ℚ) : Prop := l * b ≤ a ∧ a ≤ u * b

theorem Between.mul {l u l' u' a b a' b' : ℚ} (h : Between l u a b) (h' : Between l' u' a' b')
    (hl : 0 ≤ l) (hl' : 0 ≤ l') (hb : 0 ≤ b) (hb' : 0 ≤ b') :
    Between (l * l') (u * u') (a * a') (b * b') := by
  have hlb := mul_nonneg hl hb
  have hlb' := mul_nonneg hl' hb'
  constructor
  · calc l * l' * (b * b') = l * b * (l' * b') := by ring
      _ ≤ a * a' := mul_le_mul h.1 h'.1 hlb' (hlb.trans h.1)
  · calc a * a' ≤ u * b * (u' * b') :=
          mul_le_mul h.2 h'.2 (hlb'.trans h'.1) (hlb.trans (h.1.trans h.2))
      _ = u * u' * (b * b') := by ring

theorem Between.pow {l u a b : ℚ} (h : Between l u a b) (hl : 0 ≤ l) (hb : 0 ≤ b) (n : Nat) :
    Between (l ^ n) (u ^ n) (a ^ n) (b ^ n) := by
  have hlb := mul_nonneg hl hb
  constructor
  · rw [← mul_pow]
    exact pow_le_pow_left₀ hlb h.1 n
  · rw [← mul_pow]
    exact pow_le_pow_left₀ (hlb.trans h.1) h.2 n

theorem Between.trans {l u l' u' a b c : ℚ} (h : Between l u a b) (h' : Between l' u' b c)
    (hl : 0 ≤ l) (hu : 0 ≤ u) : Between (l * l') (u * u') a c := by
  constructor
  · calc l * l' * c = l * (l' * c) := mul_assoc l l' c
      _ ≤ l * b := mul_le_mul_of_nonneg_left h'.1 hl
      _ ≤ a := h.1
  · calc a ≤ u * b := h.2
      _ ≤ u * (u' * c) := mul_le_mul_of_nonneg_left h'.2 hu
      _ = u * u' * c := (mul_assoc u u' c).symm

/-- An absolute error of `ε` is a relative one for a value of at least 1. -/
theorem Near.between {ε x : ℚ} {w : Word} (h : Near ε w x) (hx : 1 ≤ x) (hε : 0 ≤ ε) :
    Between (1 - ε) (1 + ε) (val w) x := by
  obtain ⟨hlo, hhi⟩ := abs_le.1 h.2
  have := mul_le_mul_of_nonneg_left hx hε
  constructor <;> linarith

/-- A product away from the subnormal range and from overflow has a relative error only. -/
theorem fmul_between {a b : Word} (ha : isFinite a = true) (hb : isFinite b = true)
    (hlo : 1 / 2 ^ 20 ≤ val a * val b) (hhi : val a * val b ≤ 2 ^ 20) :
    isFinite (fmul a b) = true ∧
    Between (1 - 1 / 2 ^ 23) (1 + 1 / 2 ^ 23) (val (fmul a b)) (val a * val b) := by
  have habs : |val a * val b| = val a * val b := abs_of_nonneg (by linarith)
  have hfit : |val a * val b| ≤ 2 ^ 100 := by linarith
  obtain ⟨hfin, herr⟩ := fmul_near ha hb hfit
  obtain ⟨hge, hle⟩ := abs_le.1 herr
  rw [habs] at hge hle
  exact ⟨hfin, by linarith, by linarith⟩

/-! #### The decomposition (R112): `x = 2^e * m`, and `m = m_t * (1 + ρ)` -/

theorem ffrac_lt (w : Word) : ffrac w < 2 ^ 23 := Nat.mod_lt _ (by positivity)

/-- The significand as a number in [1, 2). -/
def significand (x : Word) : ℚ := (2 ^ 23 + ffrac x : Nat) / 2 ^ 23

/-- The truncated significand `m_t` of a bucket. -/
def truncated (k : BitVec 3) : ℚ := 1 + k.toNat / 8

/-- The exact residual of the significand over the truncated one. -/
def residual (x : Word) : ℚ := significand x / truncated (powBucket x) - 1

theorem truncated_pos (k : BitVec 3) : 0 < truncated k := by
  unfold truncated
  positivity

theorem significand_eq (x : Word) : significand x = truncated (powBucket x) * (1 + residual x) := by
  have := (truncated_pos (powBucket x)).ne'
  unfold residual
  field_simp
  ring

theorem toNat_powBucket (x : Word) : (powBucket x).toNat = ffrac x / 2 ^ 20 := by
  simp only [powBucket, ffrac, BitVec.extractLsb'_toNat, Nat.shiftRight_eq_div_pow]
  omega

theorem residual_bounds (x : Word) : 0 ≤ residual x ∧ residual x ≤ 1 / 8 := by
  have hk := toNat_powBucket x
  have hf := ffrac_lt x
  have hlo : (8 + (powBucket x).toNat) * 2 ^ 20 ≤ 2 ^ 23 + ffrac x := by omega
  have hhi : 8 * (2 ^ 23 + ffrac x) ≤ 9 * ((8 + (powBucket x).toNat) * 2 ^ 20) := by omega
  have hlo' : ((8 + (powBucket x).toNat) * 2 ^ 20 : ℚ) ≤ 2 ^ 23 + ffrac x := by exact_mod_cast hlo
  have hhi' : (8 * (2 ^ 23 + ffrac x) : ℚ) ≤ 9 * ((8 + (powBucket x).toNat) * 2 ^ 20) := by
    exact_mod_cast hhi
  rw [residual, sub_nonneg, sub_le_iff_le_add, le_div_iff₀ (truncated_pos _),
    div_le_iff₀ (truncated_pos _), significand, truncated]
  push_cast
  constructor <;> linarith

theorem toNat_powMantissa (x : Word) : (powMantissa x).toNat = 126 * 2 ^ 23 + (2 ^ 23 + ffrac x) := by
  have hf : (x.extractLsb' 0 23).toNat = ffrac x := by simp [ffrac]
  have hhigh : (0#1 ++ 0x7F#8).toNat = 127 := by decide
  rw [powMantissa, BitVec.toNat_append, hhigh, hf, Nat.shiftLeft_eq, Nat.mul_comm,
    ← Nat.two_pow_add_eq_or_of_lt (ffrac_lt x)]
  omega

theorem val_of_nonneg {w : Word} (h : fsign w = false) : val w = funits w / 2 ^ 149 := by
  simp [val, fvalue, h]

/-- The significand is exact. -/
theorem powMantissa_near (x : Word) : Near 0 (powMantissa x) (significand x) := by
  have hf := ffrac_lt x
  have hm : fmag (powMantissa x) = 126 * 2 ^ 23 + (2 ^ 23 + ffrac x) := by
    rw [fmag, toNat_powMantissa]
    omega
  have hs : fsign (powMantissa x) = false := by
    rw [fsign_eq, toNat_powMantissa, decide_eq_false_iff_not]
    omega
  constructor
  · rw [isFinite, hm, decide_eq_true_eq, infMag]
    omega
  · rw [val_of_nonneg hs, funits_eq, hm, magUnits_block (by omega) (by omega), significand,
      abs_nonpos_iff]
    push_cast
    ring

/-- A value of the domain is its significand at its exponent, `e + 4` being the table's index. -/
theorem val_eq_of_powOk {x : Word} (h : powOk x = true) :
    val x = 2 ^ (powExpIndex x).toNat / 2 ^ 4 * significand x := by
  rw [powOk, Bool.and_eq_true, Bool.and_eq_true, Bool.not_eq_true', decide_eq_true_eq,
    decide_eq_true_eq] at h
  obtain ⟨⟨hs, hlo⟩, hhi⟩ := h
  have hi : (powExpIndex x).toNat = fexp x - 123 := by
    rw [powExpIndex, BitVec.toNat_ofNat]
    omega
  have he : fexp x - 1 = (powExpIndex x).toNat + 122 := by omega
  rw [val_of_nonneg hs, funits, fsig, if_neg (by omega), he, significand, pow_add]
  push_cast
  ring

/-! #### The tables and coefficients (R111): each as near its real value as binary32 allows -/

theorem invT_near (k : BitVec 3) : Near (1 / 2 ^ 24) (invT k) (1 / truncated k) := by
  unfold Near
  decide +kernel +revert

/-- The entry is `m_t^2.4`, its fifth power `m_t^12`. -/
theorem mpT_between (k : BitVec 3) :
    isFinite (mpT k) = true ∧ 1 ≤ val (mpT k) ∧ val (mpT k) ≤ 5 ∧
    Between (1 - 1 / 2 ^ 21) (1 + 1 / 2 ^ 21) (val (mpT k) ^ 5) (truncated k ^ 12) := by
  unfold Between
  decide +kernel +revert

/-- The entry is `2^(2.4 e)` for `e = i - 4`, its fifth power `2^(12 e)`. -/
theorem epT_between (i : BitVec 3) :
    isFinite (epT i) = true ∧ 1 / 2 ^ 10 ≤ val (epT i) ∧ val (epT i) ≤ 2 ^ 8 ∧
    Between (1 - 1 / 2 ^ 21) (1 + 1 / 2 ^ 21) (val (epT i) ^ 5) ((2 ^ i.toNat / 2 ^ 4) ^ 12) := by
  unfold Between
  decide +kernel +revert

theorem cOne_near : Near 0 cOne 1 := by unfold Near; decide +kernel

theorem cP1_near : Near (1 / 2 ^ 21) cP1 (12 / 5) := by unfold Near; decide +kernel

theorem cP2_near : Near (1 / 2 ^ 21) cP2 (42 / 25) := by unfold Near; decide +kernel

theorem cP3_near : Near (1 / 2 ^ 18) cP3 (28 / 125) := by unfold Near; decide +kernel

/-! #### The computation (R113), step by step -/

/-- The residual computed: the product with the rounded inverse is near `1 + ρ`. -/
theorem powResidual_near (x : Word) : Near (1 / 2 ^ 21) (powResidual x) (residual x) := by
  obtain ⟨hρ0, hρ1⟩ := residual_bounds x
  have hsig : |significand x| ≤ 2 := by
    have hf := ffrac_lt x
    rw [significand, abs_of_nonneg (by positivity), div_le_iff₀ (by positivity)]
    exact_mod_cast (by omega : 2 ^ 23 + ffrac x ≤ 2 * 2 ^ 23)
  have hinv : |1 / truncated (powBucket x)| ≤ 1 := by
    rw [abs_of_pos (one_div_pos.2 (truncated_pos _)), div_le_one (truncated_pos _), truncated]
    linarith [(by positivity : (0 : ℚ) ≤ (powBucket x).toNat / 8)]
  have hprod := (powMantissa_near x).mul (invT_near (powBucket x)) hsig hinv (by norm_num)
  have hres : significand x * (1 / truncated (powBucket x)) - 1 = residual x := by
    rw [residual, mul_one_div]
  have hdiff := hprod.sub cOne_near (S := 1 / 8) (by rwa [hres, abs_of_nonneg hρ0]) (by norm_num)
  rw [hres] at hdiff
  exact hdiff.le (by norm_num)

/-- One step of the Horner scheme keeps an error of 2^-18: `ρ` is at most 1/8, which damps the error
of the step before. -/
theorem horner_step {r y c : Word} {ρ Y C : ℚ} (hr : Near (1 / 2 ^ 21) r ρ) (hρ0 : 0 ≤ ρ)
    (hρ1 : ρ ≤ 1 / 8) (hy : Near (1 / 2 ^ 18) y Y) (hY0 : 0 ≤ Y) (hY3 : Y ≤ 3)
    (hc : Near (1 / 2 ^ 21) c C) (hC0 : 0 ≤ C) (hC3 : C ≤ 3) :
    Near (1 / 2 ^ 18) (fadd c (fmul r y)) (C + ρ * Y) := by
  have hprod := hr.mul hy ((abs_of_nonneg hρ0).trans_le hρ1) ((abs_of_nonneg hY0).trans_le hY3)
    (by norm_num)
  have hρY := mul_le_mul hρ1 hY3 hY0 (by norm_num)
  have hsum : |C + ρ * Y| ≤ 4 := by
    rw [abs_of_nonneg (add_nonneg hC0 (mul_nonneg hρ0 hY0))]
    linarith
  exact (hc.add hprod hsum (by norm_num)).le (by norm_num)

/-- The degree-3 binomial series of `(1 + ρ)^2.4`. -/
def binomialSeries (ρ : ℚ) : ℚ := 1 + ρ * (12 / 5 + ρ * (42 / 25 + ρ * (28 / 125)))

theorem powCorrection_near {r : Word} {ρ : ℚ} (hr : Near (1 / 2 ^ 21) r ρ) (h0 : 0 ≤ ρ)
    (h1 : ρ ≤ 1 / 8) : Near (1 / 2 ^ 18) (powCorrection r) (binomialSeries ρ) := by
  have hone : Near (1 / 2 ^ 21) cOne 1 := cOne_near.le (by norm_num)
  have h₂ := horner_step hr h0 h1 cP3_near (by norm_num) (by norm_num) cP2_near (by norm_num)
    (by norm_num)
  have h₁ := horner_step hr h0 h1 h₂ (by positivity) (by nlinarith) cP1_near (by norm_num)
    (by norm_num)
  exact horner_step hr h0 h1 h₁ (by positivity) (by nlinarith) hone (by norm_num) (by norm_num)

/-- What the fifth power of the series has beyond `(1 + ρ)^12`, over `ρ^4`. -/
def binomialExcess (ρ : ℚ) : ℚ :=
  21 / 125 + ρ * (4872 / 3125 + ρ * (20132 / 3125 + ρ * (243144 / 15625 + ρ * (1893069 / 78125 +
    ρ * (9870436 / 390625 + ρ * (173038062 / 9765625 + ρ * (79524372 / 9765625 +
    ρ * (112211747 / 48828125 + ρ * (84822528 / 244140625 + ρ * (25815552 / 1220703125 +
    ρ * (17210368 / 30517578125)))))))))))

theorem binomialSeries_pow (ρ : ℚ) :
    binomialSeries ρ ^ 5 = (1 + ρ) ^ 12 + ρ ^ 4 * binomialExcess ρ := by
  unfold binomialSeries binomialExcess
  ring

theorem binomialExcess_mono {ρ σ : ℚ} (h0 : 0 ≤ ρ) (h : ρ ≤ σ) :
    binomialExcess ρ ≤ binomialExcess σ := by
  have h0' := h0.trans h
  unfold binomialExcess
  gcongr

/-- The series against the power it approximates, in fifth powers: the excess has positive
coefficients, so that it is largest at 1/8 (R114). -/
theorem binomialSeries_between {ρ : ℚ} (h0 : 0 ≤ ρ) (h1 : ρ ≤ 1 / 8) :
    Between 1 (1 + 1 / 2 ^ 12) (binomialSeries ρ ^ 5) ((1 + ρ) ^ 12) := by
  have hpos : 0 ≤ binomialExcess ρ := by
    unfold binomialExcess
    positivity
  have hone : 1 ≤ (1 + ρ) ^ 12 := one_le_pow₀ (by linarith)
  have hmax : ρ ^ 4 * binomialExcess ρ ≤ 1 / 2 ^ 12 := by
    calc ρ ^ 4 * binomialExcess ρ ≤ (1 / 8) ^ 4 * binomialExcess (1 / 8) := by
          have := binomialExcess_mono h0 h1
          gcongr
      _ ≤ 1 / 2 ^ 12 := by norm_num [binomialExcess]
  have := mul_nonneg (pow_nonneg h0 4) hpos
  rw [Between, binomialSeries_pow]
  constructor <;> linarith

theorem binomialSeries_bounds {ρ : ℚ} (h0 : 0 ≤ ρ) (h1 : ρ ≤ 1 / 8) :
    1 ≤ binomialSeries ρ ∧ binomialSeries ρ ≤ 2 := by
  unfold binomialSeries
  constructor
  · have : 0 ≤ ρ * (12 / 5 + ρ * (42 / 25 + ρ * (28 / 125))) := by positivity
    linarith
  · calc 1 + ρ * (12 / 5 + ρ * (42 / 25 + ρ * (28 / 125)))
        ≤ 1 + 1 / 8 * (12 / 5 + 1 / 8 * (42 / 25 + 1 / 8 * (28 / 125))) := by gcongr
      _ ≤ 2 := by norm_num

/-- The result: two products, each rounded once, of the three factors. -/
theorem pow24Fn_between_factors {x : Word} (h : powOk x = true) :
    isFinite (pow24Fn x) = true ∧ 0 < val (pow24Fn x) ∧
    Between ((1 - 1 / 2 ^ 23) * ((1 - 1 / 2 ^ 23) * (1 - 1 / 2 ^ 18)))
      ((1 + 1 / 2 ^ 23) * ((1 + 1 / 2 ^ 23) * (1 + 1 / 2 ^ 18))) (val (pow24Fn x))
      (val (epT (powExpIndex x)) * val (mpT (powBucket x)) * binomialSeries (residual x)) := by
  obtain ⟨hρ0, hρ1⟩ := residual_bounds x
  obtain ⟨hS1, hS2⟩ := binomialSeries_bounds hρ0 hρ1
  have hcorr := powCorrection_near (powResidual_near x) hρ0 hρ1
  have hc := hcorr.between hS1 (by norm_num)
  obtain ⟨hefin, hE0, hE1, -, -⟩ := epT_between (powExpIndex x)
  obtain ⟨hmfin, hM0, hM1, -, -⟩ := mpT_between (powBucket x)
  rw [pow24Fn, if_pos h]
  have hEM0 : 1 / 2 ^ 10 * 1 ≤ val (epT (powExpIndex x)) * val (mpT (powBucket x)) :=
    mul_le_mul hE0 hM0 (by norm_num) (by linarith)
  have hEM1 : val (epT (powExpIndex x)) * val (mpT (powBucket x)) ≤ 2 ^ 8 * 5 :=
    mul_le_mul hE1 hM1 (by linarith) (by norm_num)
  obtain ⟨hemfin, hem⟩ := fmul_between hefin hmfin (by linarith) (by linarith)
  generalize fmul (epT (powExpIndex x)) (mpT (powBucket x)) = em at *
  generalize powCorrection (powResidual x) = c at *
  obtain ⟨hem0, hem1⟩ := hem
  obtain ⟨hc0, hc1⟩ := hc
  have hp0 : 1 / 2 ^ 11 * (1 / 2) ≤ val em * val c :=
    mul_le_mul (by linarith) (by linarith) (by norm_num) (by linarith)
  have hp1 : val em * val c ≤ 2 ^ 11 * 3 :=
    mul_le_mul (by linarith) (by linarith) (by linarith) (by norm_num)
  obtain ⟨hpfin, hp⟩ := fmul_between hemfin hcorr.1 (by linarith) (by linarith)
  have hpos : 0 < val (fmul em c) := by linarith [hp.1]
  have hfactors := Between.mul ⟨hem0, hem1⟩ ⟨hc0, hc1⟩ (by norm_num) (by norm_num) (by linarith)
    (by linarith)
  exact ⟨hpfin, hpos, hp.trans hfactors (by norm_num) (by norm_num)⟩

/-- In fifth powers each factor is near a twelfth power, and those are the factors of `x^12`. -/
theorem pow24Fn_pow_between {x : Word} (h : powOk x = true) :
    (9999 / 10000) ^ 5 * val x ^ 12 < val (pow24Fn x) ^ 5 ∧
    val (pow24Fn x) ^ 5 < (10001 / 10000) ^ 5 * val x ^ 12 := by
  obtain ⟨hρ0, hρ1⟩ := residual_bounds x
  obtain ⟨hS1, -⟩ := binomialSeries_bounds hρ0 hρ1
  obtain ⟨-, hE0, -, hE⟩ := epT_between (powExpIndex x)
  obtain ⟨-, hM0, -, hM⟩ := mpT_between (powBucket x)
  obtain ⟨-, -, hp⟩ := pow24Fn_between_factors h
  have hS := binomialSeries_between hρ0 hρ1
  have ht := truncated_pos (powBucket x)
  have hfactors := (hE.mul hM (by norm_num) (by norm_num) (by positivity) (by positivity)).mul
    hS (by norm_num) (by norm_num) (by positivity) (by positivity)
  have hx : val x ^ 12 = (2 ^ (powExpIndex x).toNat / 2 ^ 4) ^ 12 * truncated (powBucket x) ^ 12 *
      (1 + residual x) ^ 12 := by
    rw [val_eq_of_powOk h, significand_eq]
    ring
  have hx0 : 0 < val x ^ 12 := by
    rw [hx]
    positivity
  rw [← hx, ← mul_pow, ← mul_pow] at hfactors
  have hEM : 0 ≤ val (epT (powExpIndex x)) * val (mpT (powBucket x)) :=
    mul_nonneg (by linarith) (by linarith)
  obtain ⟨hlo, hhi⟩ := (hp.pow (by norm_num) (mul_nonneg hEM (by linarith)) 5).trans hfactors
    (by norm_num) (by norm_num)
  constructor
  · refine lt_of_lt_of_le (mul_lt_mul_of_pos_right ?_ hx0) hlo
    norm_num
  · refine lt_of_le_of_lt hhi (mul_lt_mul_of_pos_right ?_ hx0)
    norm_num

/-- A value above 0 has sign 0 and is above the zero pattern. -/
theorem flt_zero_of_val_pos {w : Word} (hw : isFinite w = true) (h : 0 < val w) :
    fsign w = false ∧ flt cZero w = true := by
  have hv : 0 < fvalue w := by
    rw [val] at h
    exact_mod_cast (div_pos_iff_of_pos_right (by positivity : (0 : ℚ) < 2 ^ 149)).1 h
  have hs : fsign w = false := by
    rw [fvalue] at hv
    cases hs : fsign w
    · rfl
    · simp [hs] at hv
      omega
  have hm : fmag w ≠ 0 := fun h0 => hv.ne' (fvalue_eq_zero h0)
  have hz : isNaN cZero = false ∧ fkey cZero = 0 := by decide
  refine ⟨hs, ?_⟩
  rw [flt, hz.1, hz.2, not_nan_of_finite hw, fkey, hs]
  simp
  omega

theorem scaled_operand (f c : ℚ) {U : ℚ} (hU : 0 < U) :
    (c / 10000) ^ 5 * (f / U) ^ 12 * (10000 ^ 5 * U ^ 12) = c ^ 5 * f ^ 12 := by
  field_simp

theorem scaled_result (p : ℚ) {U : ℚ} (hU : 0 < U) :
    (p / U) ^ 5 * (10000 ^ 5 * U ^ 12) = 10000 ^ 5 * (p ^ 5 * U ^ 7) := by
  field_simp

/-- Settles O47: rounding, tables and series each cost a small factor, and in fifth powers the factors
multiply to less than 1e-4 allows. -/
theorem powerIsWithinItsRelativeError : Obligations.PowerIsWithinItsRelativeError := by
  intro x hs hlo hhi
  have hok : powOk x = true := by simp [powOk, hs, hlo, hhi]
  obtain ⟨hfin, hpos, -⟩ := pow24Fn_between_factors hok
  obtain ⟨hps, hflt⟩ := flt_zero_of_val_pos hfin hpos
  obtain ⟨hl, hu⟩ := pow24Fn_pow_between hok
  rw [val_of_nonneg hs, val_of_nonneg hps] at hl hu
  have hU : (0 : ℚ) < 2 ^ 149 := by positivity
  have hscale : (0 : ℚ) < 10000 ^ 5 * (2 ^ 149) ^ 12 := by positivity
  have hl' := mul_lt_mul_of_pos_right hl hscale
  have hu' := mul_lt_mul_of_pos_right hu hscale
  rw [scaled_operand _ _ hU, scaled_result _ hU] at hl' hu'
  rw [pow_mul 2 149 7]
  exact ⟨hfin, hflt, by exact_mod_cast hl', by exact_mod_cast hu'⟩

end Sys2Proof.Machine
end

section
/-! ### What a step can do to the machine, said once: the host's, the unit's and the reset input's part -/

namespace Sys2Proof.Machine

/-! #### A move that touches no register -/

/-- Every register and `busy` are the same: all that the window and the interrupt show. -/
def State.SameRegs (s t : State) : Prop :=
  t = { s with
    pending := t.pending, inReset := t.inReset, host := t.host, turns := t.turns, reads := t.reads
    freeReads := t.freeReads }

theorem State.SameRegs.readReg {s t : State} (h : s.SameRegs t) (r : Reg) :
    t.readReg r = s.readReg r := by
  rw [h]
  cases r with
  | yuv side c | rgb side c | lab side c => cases side <;> rfl
  | _ => rfl

theorem State.SameRegs.wordAt {s t : State} (h : s.SameRegs t) (i : Nat) : t.wordAt i = s.wordAt i := by
  unfold State.wordAt
  cases Reg.ofIndex i with
  | none => rfl
  | some r => exact h.readReg r

/-- Only the host's and the platform's fields differ: no register, nothing hidden, not the reset input. -/
def State.SameUnit (s t : State) : Prop :=
  t = { s with host := t.host, turns := t.turns, reads := t.reads, freeReads := t.freeReads }

theorem State.SameUnit.sameRegs {s t : State} (h : s.SameUnit t) : s.SameRegs t := by
  unfold State.SameRegs
  rw [h]

/-- A read hands over a word and touches no register, in reset or out of it (R64, R260). -/
theorem State.busRead_sameUnit (s : State) (i : Nat) : s.SameUnit (s.busRead i).2 := by
  unfold State.busRead
  split <;> rfl

/-! #### The register map and the host's writes -/

/-- Every register of the map has a row in the table of R21. -/
theorem Reg.index_mem_resetTable (r : Reg) : r.index ∈ resetTable.map Prod.fst := by
  cases r with
  | yuv side c | rgb side c | lab side c => cases side <;> cases c <;> decide
  | _ => decide

/-- A word index outside the table of R21 is reserved (R22). -/
theorem Reg.ofIndex_eq_none {i : Nat} (h : i ∉ resetTable.map Prod.fst) : Reg.ofIndex i = none := by
  cases hr : Reg.ofIndex i with
  | none => rfl
  | some r => exact absurd (Reg.index_of_ofIndex hr ▸ r.index_mem_resetTable) h

/-- An access that is performed is 32 bits wide and at a multiple of 4 (R63). -/
theorem Access.accepted_write {off : BitVec 12} {width : Width} {w : Word} :
    (Access.write off width w).accepted = true ↔ width = .w32 ∧ off.toNat % 4 = 0 := by
  simp [Access.accepted]

/-- The one aligned offset at which a register stands. -/
theorem Reg.offset_eq_of_ofIndex {off : BitVec 12} {r : Reg} (h : Reg.ofIndex (off.toNat / 4) = some r)
    (ha : off.toNat % 4 = 0) : r.offset = off := by
  apply BitVec.eq_of_toNat_eq
  rw [r.toNat_offset, Reg.index_of_ofIndex h]
  omega

/-- A host write leaves `P`, `DE` and the reset input. -/
theorem State.writeReg_frame (s : State) (r : Reg) (w : Word) :
    (s.writeReg r w).p = s.p ∧ (s.writeReg r w).de = s.de ∧ (s.writeReg r w).inReset = s.inReset := by
  have hstore := s.storeReg_frame r w
  rcases s.writeReg_cases r w with e | ⟨-, e⟩ | ⟨-, e⟩ | ⟨-, e⟩ | ⟨-, -, e⟩ | ⟨-, e⟩ <;>
    simp [e, hstore]

/-! #### The host's move -/

/-- All that the host's move can do: touch no register, or write one register out of reset (R65). -/
inductive State.HostMoved (s t : State) : Prop where
  | quiet (h : s.SameUnit t)
  | wrote (r : Reg) (w : Word) (rest : List HostOp)
      (hh : s.host = .access (.write r.offset .w32 w) :: rest) (hr : s.inReset = false)
      (ht : t = { s with host := rest }.writeReg r w)

theorem State.busAccess_moved {s t : State} {a : Access} {rest : List HostOp}
    (hh : s.host = .access a :: rest) (h : { s with host := rest }.busAccess a = .next t) :
    s.HostMoved t := by
  cases a with
  | read off width =>
    obtain ⟨-, rfl⟩ | ⟨-, rfl⟩ := State.busAccess_read_next h <;> exact .quiet rfl
  | write off width w =>
    cases hacc : (Access.write off width w).accepted with
    | false => simp [State.busAccess_refused hacc] at h
    | true =>
      obtain ⟨rfl, halign⟩ := Access.accepted_write.1 hacc
      have ht := State.busAccess_write_next h
      cases hr : s.inReset with
      | true => exact .quiet (by simp [State.SameUnit, ht, hr])
      | false =>
        cases hi : Reg.ofIndex (off.toNat / 4) with
        | none => exact .quiet (by simp [State.SameUnit, ht, hr, State.writeWord, hi])
        | some r =>
          obtain rfl := Reg.offset_eq_of_ofIndex hi halign
          exact .wrote r w rest hh hr (by simpa [hr, State.writeWord, hi] using ht)

theorem State.pollMove_sameUnit (s : State) (rest : List HostOp) : s.SameUnit (s.pollMove rest) := by
  have h := s.busRead_sameUnit Reg.status.index
  unfold State.SameUnit State.pollMove State.returned at *
  rw [h]

theorem State.hostMove_moved {s t : State} (h : s.hostMove = .next t) : s.HostMoved t := by
  cases hh : s.host with
  | nil =>
    rw [State.hostMove_nil hh] at h
    cases h
    exact .quiet rfl
  | cons op rest =>
    cases op with
    | access a => exact State.busAccess_moved hh (by simpa [State.hostMove, hh] using h)
    | poll =>
      simp only [State.hostMove, hh] at h
      cases h
      exact .quiet (s.pollMove_sameUnit rest)

/-! #### The errors a command can end in (R222) -/

/-- The code and the register of an error are a pair of R222, as the latch stores them. -/
def CmdError.Listed (e : CmdError) : Prop :=
  (e.code.code.toNat, (BitVec.ofNat 8 e.info.index).toNat) ∈ errorPairs

theorem opcodeError_listed : opcodeError.Listed := by unfold CmdError.Listed; decide

theorem bitDepthError_listed : bitDepthError.Listed := by unfold CmdError.Listed; decide

/-- Every check raises an error of R222. -/
def ChecksListed (cs : List Check) : Prop := ∀ c ∈ cs, c.error.Listed

theorem ChecksListed.append {cs ds : List Check} (hc : ChecksListed cs) (hd : ChecksListed ds) :
    ChecksListed (cs ++ ds) := fun c h => (List.mem_append.1 h).elim (hc c) (hd c)

theorem checksListed_cons {c : Check} {cs : List Check} :
    ChecksListed (c :: cs) ↔ c.error.Listed ∧ ChecksListed cs := List.forall_mem_cons

theorem checksListed_nil : ChecksListed [] := List.forall_mem_nil _

theorem checksListed_weightChecks (k : Weights) : ChecksListed (weightChecks k) := by
  simp only [weightChecks, checksListed_cons, checksListed_nil, CmdError.Listed]
  decide

theorem checksListed_sampleChecks (depth : Nat) (side : Side) (t : Yuv) :
    ChecksListed (sampleChecks depth side t) := by
  simp only [sampleChecks, checksListed_cons, checksListed_nil, CmdError.Listed]
  cases side <;> decide

theorem checksListed_rgbChecks (side : Side) (t : Rgb) : ChecksListed (rgbChecks side t) := by
  simp only [rgbChecks, checksListed_cons, checksListed_nil, CmdError.Listed]
  cases side <;> decide

theorem checksListed_labChecks (side : Side) (t : Lab) : ChecksListed (labChecks side t) := by
  simp only [labChecks, checksListed_cons, checksListed_nil, CmdError.Listed]
  cases side <;> decide

theorem checksListed_xCheck (ok : Bool) : ChecksListed (xCheck ok) := by
  simp only [xCheck, checksListed_cons, checksListed_nil, CmdError.Listed]
  decide

/-! #### The distance is never below 0 (R186) -/

theorem flt_zero_iff (w : Word) : flt w cZero = true ↔ isNaN w = false ∧ fkey w < 0 := by
  have hk : fkey cZero = 0 := by decide
  have hn : isNaN cZero = false := by decide
  simp [flt, hk, hn]

/-- A pattern without a sign, or with magnitude 0, is not below 0 (R12: `-0.0 == 0.0`). -/
theorem flt_zero_eq_false {w : Word} (h : fsign w = false ∨ fmag w = 0) : flt w cZero = false := by
  have hk : ¬ fkey w < 0 := by
    unfold fkey
    rcases h with h | h <;> simp [h]
  simpa [hk] using flt_zero_iff w

/-- A square root is never below 0 (R12): the root of a zero is that zero, of any other negative value a
NaN, and every other root has no sign. -/
theorem flt_fsqrt_zero (a : Word) : flt (fsqrt a) cZero = false := by
  have hnan (b : Word) : flt (nanOf .sqrt a b) cZero = false := by simp [flt]
  unfold fsqrt
  split
  · exact hnan 0
  split
  · next h0 => exact flt_zero_eq_false (.inr h0)
  split
  · exact hnan 0
  split
  · next hs _ => exact flt_zero_eq_false (.inl (by simpa using hs))
  · exact flt_zero_eq_false (.inl (fsign_packSign _ (roundUnits_lt _ _)))

/-- The distance is a square root (R174). -/
theorem flt_de2000Fn_zero (c : Params) (p q : Lab) (k : Weights) :
    flt (de2000Fn c p q k) cZero = false := flt_fsqrt_zero _

/-! #### The unit's move -/

/-- What the results of a command leave and say (R94, R186): STATUS stays, only `POW24` and `LIN` write
`P`, only `DE` and `PIXEL` write `DE`, which is then not below 0. -/
structure State.Results (s : State) (i : Instr) (r : State) : Prop where
  status : r.status = s.status
  p      : r.p = s.p ∨ i = .pow24 ∨ i = .lin
  de     : r.de = s.de ∨ (i = .de ∨ i = .pixel) ∧ flt r.de cZero = false

theorem State.results_setDe (s : State) {w : Word} (h : flt w cZero = false) :
    s.Results .de (s.setDe w) := ⟨rfl, .inl rfl, .inr ⟨.inl rfl, h⟩⟩

theorem State.results_setPixel (s : State) (rgb1 rgb2 : Rgb) (lab1 lab2 : Lab) {w : Word}
    (h : flt w cZero = false) : s.Results .pixel (s.setPixel rgb1 rgb2 lab1 lab2 w) :=
  ⟨by simp [State.setPixel], .inl (by simp [State.setPixel]), .inr ⟨.inr rfl, h⟩⟩

/-- All that a completion can do: end with the results of the word's command, or with an error of R222
that changes only STATUS (R224). -/
inductive State.Completed (s : State) : State → Prop where
  | ok (i : Instr) (r : State) (hd : decode s.pending = some i) (hr : s.Results i r) :
      s.Completed r.finish
  | failed (e : CmdError) (he : e.Listed) : s.Completed (s.fail e)

theorem State.Completed.of_settle {s r t : State} {i : Instr} {cs : List Check}
    (hd : decode s.pending = some i) (h : s.settle cs r = .next t) (hc : ChecksListed cs)
    (hr : s.Results i r) : s.Completed t := by
  obtain ⟨-, rfl⟩ | ⟨c, hmem, -, rfl⟩ := State.settle_cases h
  · exact .ok i r hd hr
  · exact .failed c.error (hc c hmem)

theorem State.Completed.of_bitDepth {s t : State}
    (h : (.next (s.fail bitDepthError) : Host.Outcome State Fault Refusal) = .next t) :
    s.Completed t := by
  cases h
  exact .failed _ bitDepthError_listed

/-- Every command ends with its own results or with an error of R222. -/
theorem exec_completed {i : Instr} {s t : State} (hd : decode s.pending = some i)
    (h : exec i s = .next t) : s.Completed t := by
  cases i with
  | nop =>
    simp only [exec, execNop] at h
    exact .of_settle hd h checksListed_nil ⟨rfl, .inl rfl, .inl rfl⟩
  | rgb2lab side =>
    simp only [exec, execRgb2lab] at h
    exact .of_settle hd h (checksListed_rgbChecks _ _) ⟨by simp, .inl (by simp), .inl (by simp)⟩
  | de =>
    simp only [exec, execDe] at h
    refine .of_settle hd h ?_ (State.results_setDe _ (flt_de2000Fn_zero _ _ _ _))
    exact ((checksListed_weightChecks _).append (checksListed_labChecks _ _)).append
      (checksListed_labChecks _ _)
  | pow24 =>
    simp only [exec, execPow24] at h
    exact .of_settle hd h (checksListed_xCheck _) ⟨rfl, .inr (.inl rfl), .inl rfl⟩
  | lin =>
    simp only [exec, execLin] at h
    exact .of_settle hd h (checksListed_xCheck _) ⟨rfl, .inr (.inr rfl), .inl rfl⟩
  | yuv2rgb side =>
    simp only [exec, execYuv2rgb] at h
    split at h
    · exact .of_bitDepth h
    · exact .of_settle hd h (checksListed_sampleChecks _ _ _) ⟨by simp, .inl (by simp), .inl (by simp)⟩
  | cvt side =>
    simp only [exec, execCvt] at h
    split at h
    · exact .of_bitDepth h
    · refine .of_settle hd h ?_ ⟨by simp, .inl (by simp), .inl (by simp)⟩
      exact (checksListed_sampleChecks _ _ _).append (checksListed_rgbChecks _ _)
  | pixel =>
    simp only [exec, execPixel] at h
    split at h
    · exact .of_bitDepth h
    · refine .of_settle hd h ?_ (State.results_setPixel _ _ _ _ _ (flt_de2000Fn_zero _ _ _ _))
      exact ((checksListed_weightChecks _).append (checksListed_sampleChecks _ _ _)).append
        (checksListed_sampleChecks _ _ _)

theorem State.complete_completed {s t : State} (h : s.complete = .next t) : s.Completed t := by
  cases hd : decode s.pending with
  | none =>
    rw [State.complete_of_illegal hd] at h
    cases h
    exact .failed _ opcodeError_listed
  | some i => exact exec_completed hd (State.complete_of_decode hd ▸ h)

theorem State.complete_sameAgents {s t : State} (h : s.complete = .next t) :
    t.busy = false ∧ s.SameAgents t := by
  obtain ⟨t', ht', hidle, same⟩ := s.complete_idle
  obtain rfl := Host.Outcome.next.inj (ht'.symm.trans h)
  exact ⟨hidle, same⟩

/-! #### The step -/

/-- All that a step can do: touch no register; one register write of the host out of reset; a completion
of the command in flight, when it is the unit's turn or none is prescribed; or the reset input's edge. -/
inductive State.Stepped (s t : State) : Prop where
  | quiet (h : s.SameUnit t)
  | wrote (r : Reg) (w : Word) (rest : List HostOp)
      (hh : s.host = .access (.write r.offset .w32 w) :: rest) (hr : s.inReset = false)
      (ht : t = { s with turns := s.turns.tail, host := rest }.writeReg r w)
  | completed (hb : s.busy = true) (hturn : s.turns = [] ∨ s.turns.head? = some .unit)
      (ht : { s with turns := s.turns.tail }.complete = .next t)
  | driven (b : Bool) (hturn : s.turns.head? = some (.reset b))
      (ht : t = { s with turns := s.turns.tail }.driveReset b)

theorem step_stepped {s t : State} (h : step s = .next t) : s.Stepped t := by
  obtain ⟨turn, hm, hturn⟩ := step_eq_move s
  rw [hm] at h
  cases turn with
  | host =>
    cases State.hostMove_moved h with
    | quiet hq => exact .quiet hq
    | wrote r w rest hh hr ht => exact .wrote r w rest hh hr ht
  | unit =>
    cases hb : s.busy with
    | false =>
      rw [State.move, State.unitMove_idle (s := { s with turns := s.turns.tail }) hb] at h
      cases h
      exact .quiet rfl
    | true =>
      rw [State.move, State.unitMove_busy (s := { s with turns := s.turns.tail }) hb] at h
      refine .completed hb ?_ h
      rcases hturn with hturn | ⟨hnil, -⟩
      · exact .inr (by rw [hturn]; rfl)
      · exact .inl hnil
  | reset b =>
    cases h
    refine .driven b ?_ rfl
    rcases hturn with hturn | ⟨-, hdef⟩
    · rw [hturn]; rfl
    · simp only [State.defaultTurn] at hdef
      split at hdef <;> cases hdef

end Sys2Proof.Machine
end

section
/-! ### The invariant: the error latch, the sign of DE and the registers during reset -/

namespace Sys2Proof.Machine

/-! #### The error latch (R31, R222) -/

/-- Clearing the latch leaves no code behind (R65). -/
theorem Status.Coherent.clear {f : Status} (h : f.Coherent) (w : Word) : (f.clear w).Coherent := by
  unfold Status.Coherent Status.clear at *
  cases w.getLsbD 2
  · simpa using h
  · simp

/-- A latch takes the pair of the error, or keeps the pair it holds (R225). -/
theorem Status.Coherent.latch {f : Status} (h : f.Coherent) {e : CmdError} (he : e.Listed) :
    (f.latch e.code.code (BitVec.ofNat 8 e.info.index)).Coherent := by
  unfold Status.latch
  split
  · exact h
  · exact he

theorem State.writeReg_coherent {s : State} (h : s.status.Coherent) (r : Reg) (w : Word) :
    (s.writeReg r w).status.Coherent := by
  obtain e | ⟨-, e⟩ | ⟨-, e⟩ | ⟨-, e⟩ | ⟨-, -, e⟩ | ⟨-, e⟩ := s.writeReg_cases r w <;> rw [e]
  · exact h
  · exact h
  · exact h.clear w
  · exact h
  · exact h
  · obtain ⟨-, hst, -⟩ := s.storeReg_frame r w
    rwa [hst]

theorem State.Completed.coherent {s t : State} (h : s.Completed t) (hs : s.status.Coherent) :
    t.status.Coherent := by
  cases h with
  | ok i r _ hr =>
    have hr' : r.status.Coherent := hr.status ▸ hs
    exact hr'
  | failed e he => exact hs.latch he

/-! #### The sign of DE (R186) -/

theorem State.Completed.de_nonneg {s t : State} (h : s.Completed t) (hs : flt s.de cZero = false) :
    flt t.de cZero = false := by
  cases h with
  | ok i r _ hr =>
    obtain hde | ⟨-, hde⟩ := hr.de
    · exact hde ▸ hs
    · exact hde
  | failed e _ => exact hs

/-! #### The registers after reset (R260, R261) -/

/-- Being as after reset is a matter of the registers and `busy`. -/
theorem State.SameRegs.atReset {s t : State} (h : s.SameRegs t) (hs : s.AtReset) : t.AtReset := by
  have hb : t.busy = s.busy := by rw [h]
  have hi : t.irq = s.irq := by rw [h]; rfl
  unfold State.AtReset at *
  simpa only [h.wordAt, hb, hi] using hs

theorem reset_atReset : State.reset.AtReset := by
  refine ⟨by decide, fun i hi => ?_, rfl, rfl⟩
  rw [State.wordAt, Reg.ofIndex_eq_none hi]

/-- Asserting reset takes any state there. -/
theorem State.driveReset_atReset (s : State) : (s.driveReset true).AtReset :=
  State.SameRegs.atReset (t := s.driveReset true) rfl reset_atReset

theorem State.Inv.sameUnit {s t : State} (h : s.Inv) (hq : s.SameUnit t) : t.Inv := by
  refine ⟨?_, ?_, fun hr => hq.sameRegs.atReset (h.resetHeld ?_)⟩
  · rw [hq]; exact h.latch
  · rw [hq]; exact h.deNonneg
  · rwa [hq] at hr

/-- A host write happens out of reset and leaves `DE`. -/
theorem State.Inv.writeReg {s : State} (h : s.Inv) (hr : s.inReset = false) (r : Reg) (w : Word) :
    (s.writeReg r w).Inv := by
  obtain ⟨-, hde, hr'⟩ := s.writeReg_frame r w
  refine ⟨State.writeReg_coherent h.latch r w, hde ▸ h.deNonneg, fun hrt => ?_⟩
  simp [hr', hr] at hrt

/-- A completion happens out of reset, since a unit held in reset is idle. -/
theorem State.Inv.complete {s t : State} (h : s.Inv) (hb : s.busy = true)
    (ht : s.complete = .next t) : t.Inv := by
  obtain ⟨-, same⟩ := State.complete_sameAgents ht
  have hc := State.complete_completed ht
  refine ⟨hc.coherent h.latch, hc.de_nonneg h.deNonneg, fun hr => ?_⟩
  obtain ⟨-, -, hidle, -⟩ := h.resetHeld (same.inReset.symm.trans hr)
  simp [hb] at hidle

theorem State.Inv.driveReset {s : State} (h : s.Inv) (b : Bool) : (s.driveReset b).Inv := by
  cases b with
  | true => exact ⟨⟨rfl, rfl⟩, flt_zero_eq_false (.inr rfl), fun _ => s.driveReset_atReset⟩
  | false => exact ⟨h.latch, h.deNonneg, fun hr => by cases hr⟩

/-- Settles O27: of the four things a step can do, only a clear and a completion move the latch, only a
completion writes `DE`, as a square root, and during reset no register moves. -/
theorem everyStepKeepsInv : Obligations.EveryStepKeepsInv := by
  intro s t hs h
  have turnUsed : State.Inv { s with turns := s.turns.tail } := hs.sameUnit rfl
  cases step_stepped h with
  | quiet hq => exact hs.sameUnit hq
  | wrote r w rest _ hr ht =>
    have opUsed : State.Inv { s with turns := s.turns.tail, host := rest } := hs.sameUnit rfl
    exact ht ▸ opUsed.writeReg hr r w
  | completed hb _ ht => exact turnUsed.complete hb ht
  | driven b _ ht => exact ht ▸ turnUsed.driveReset b

end Sys2Proof.Machine
end

section
/-! ### The register window: the map, reserved offsets, STATUS and the interrupt -/

namespace Sys2Proof.Machine

/-! #### The map (R21, R28) -/

/-- A register of 16 bits is read with 0 above its bits (R23). -/
theorem toNat_setWidth_sample (v : BitVec 16) : (v.setWidth 32).toNat = v.toNat :=
  BitVec.toNat_setWidth_of_le (by decide)

/-- `{a, b}` has `a` in the upper bits (R90). -/
theorem toNat_append_eq_add {m n : Nat} (x : BitVec m) (y : BitVec n) :
    (x ++ y).toNat = x.toNat * 2 ^ n + y.toNat := by
  rw [BitVec.toNat_append, ← Nat.shiftLeft_add_eq_or_of_lt y.isLt, Nat.shiftLeft_eq]

/-- A flag that counts `k` when it is set is its bit times `k`. -/
theorem ite_eq_toNat_bit_mul (b : Bool) (k : Nat) : (if b then k else 0) = (bit b).toNat * k := by
  cases b <;> simp [bit]

/-- The STATUS word is the sum of its fields at their bits (R28). -/
theorem State.toNat_statusWord (s : State) : s.statusWord.toNat =
    (if s.busy then 1 else 0) + (if s.status.done then 2 else 0) + (if s.status.err then 4 else 0)
      + (if s.status.ovr then 8 else 0) + s.status.errCode.toNat * 2 ^ 8
      + s.status.errInfo.toNat * 2 ^ 16 := by
  unfold State.statusWord
  simp only [toNat_append_eq_add, BitVec.toNat_ofNat, ite_eq_toNat_bit_mul]
  omega

/-- Settles O7: each index is a row of the map, and the STATUS word is the sum of its fields. -/
theorem registerMapReads : Obligations.RegisterMapReads := by
  intro s
  have hctrl : s.wordAt 1 = if s.ie then 1 else 0 := by
    show (bit s.ie).setWidth 32 = _
    cases s.ie <;> rfl
  refine ⟨rfl, hctrl, BitVec.toNat_setWidth_of_le (by decide), rfl, s.toNat_statusWord, rfl, rfl, rfl,
    toNat_setWidth_sample _, toNat_setWidth_sample _, toNat_setWidth_sample _, toNat_setWidth_sample _,
    toNat_setWidth_sample _, toNat_setWidth_sample _, rfl, rfl, rfl, rfl, rfl, rfl, rfl, rfl, rfl, rfl,
    rfl, rfl, rfl, rfl, rfl⟩

/-! #### Aligned 32-bit accesses out of reset (R63 to R65) -/

theorem State.busAccess_read_aligned {s : State} {off : BitVec 12} (hr : s.inReset = false)
    (ha : off.toNat % 4 = 0) :
    s.busAccess (.read off .w32) = .next (s.returned (s.wordAt (off.toNat / 4))) := by
  simp [State.busAccess, Access.accepted, ha, State.busRead, hr]

theorem State.busAccess_write_aligned {s : State} {off : BitVec 12} (hr : s.inReset = false)
    (ha : off.toNat % 4 = 0) (w : Word) :
    s.busAccess (.write off .w32 w) = .next (s.writeWord (off.toNat / 4) w) := by
  simp [State.busAccess, Access.accepted, ha, hr]

theorem State.busAccess_write_reg {s : State} (hr : s.inReset = false) (r : Reg) (w : Word) :
    s.busAccess (.write r.offset .w32 w) = .next (s.writeReg r w) := by
  rw [State.busAccess_write_aligned hr r.offset_mod, r.offset_div, State.writeWord_index]

/-- The offsets R22 names are at indices of no register. -/
theorem reserved_not_mem_resetTable {n : Nat} (ha : n % 4 = 0)
    (h : n ∈ [0x02C, 0x03C, 0x04C, 0x05C, 0x06C, 0x07C] ∨ 0x08C ≤ n) :
    n / 4 ∉ resetTable.map Prod.fst := by
  simp only [List.mem_cons, List.not_mem_nil, or_false] at h
  simp only [resetTable, List.map_cons, List.map_nil, List.mem_cons, List.not_mem_nil, or_false]
  omega

/-- Settles O8: at an index of no register a read hands over 0 and a write does nothing. -/
theorem reservedOffsetsReadZeroIgnoreWrites : Obligations.ReservedOffsetsReadZeroIgnoreWrites := by
  intro s off hr ha hres
  have hnone : Reg.ofIndex (off.toNat / 4) = none :=
    Reg.ofIndex_eq_none (reserved_not_mem_resetTable ha hres)
  constructor
  · rw [State.busAccess_read_aligned hr ha, State.wordAt, hnone]
    rfl
  · intro w
    rw [State.busAccess_write_aligned hr ha, State.writeWord, hnone]

/-- Settles O15: the write is the clear of R65, and bits 1 and 2 together clear what raises the
interrupt. -/
theorem statusIsWriteOneToClear : Obligations.StatusIsWriteOneToClear := by
  intro s w hr
  refine ⟨_, State.busAccess_write_reg hr .status w, rfl, rfl, rfl, rfl, rfl, rfl, ?_⟩
  rintro rfl
  simp [State.irq, State.writeReg, Status.clear]

theorem State.irq_iff (s : State) :
    s.irq = true ↔ s.ie = true ∧ (s.status.done = true ∨ s.status.err = true) := by
  simp [State.irq]

theorem State.irq_writeReg_ctrl (s : State) (w : Word) :
    (s.writeReg .ctrl w).irq = (w.getLsbD 0 && (s.status.done || s.status.err)) := rfl

/-- Settles O16: the interrupt is a function of IE, DONE and ERR; a write to CTRL sets IE alone and a
poll sets none of them. -/
theorem interruptLevel : Obligations.InterruptLevel := by
  intro s
  refine ⟨s.irq_iff, fun w hr => ?_, fun rest hh => ?_⟩
  · refine ⟨_, State.busAccess_write_reg hr .ctrl w, rfl, fun hw => ?_, fun hw => ?_⟩
    · rw [State.irq_writeReg_ctrl, hw, Bool.true_and, Bool.or_eq_true]
    · rw [State.irq_writeReg_ctrl, hw, Bool.false_and]
  · have hq := s.pollMove_sameUnit rest
    refine ⟨s.pollMove rest, by simp [State.hostMove, hh], ?_⟩
    rw [hq]
    exact ⟨rfl, rfl, rfl⟩

end Sys2Proof.Machine
end

section
/-! ### Who changes P, DE, BUSY and STATUS -/

namespace Sys2Proof.Machine

/-! #### P and DE (R38, R39) -/

/-- Settles O26: a host write leaves both, and a completion writes them with the results of the word in
flight only. -/
theorem pAndDeHaveTheirOnlyWriters : Obligations.PAndDeHaveTheirOnlyWriters := by
  intro s t h hnr
  cases step_stepped h with
  | quiet hq =>
    have hp : t.p = s.p := by rw [hq]
    have hde : t.de = s.de := by rw [hq]
    exact ⟨absurd hp, absurd hde⟩
  | wrote r w rest _ _ ht =>
    obtain ⟨hp, hde, -⟩ := State.writeReg_frame { s with turns := s.turns.tail, host := rest } r w
    subst ht
    exact ⟨absurd hp, absurd hde⟩
  | completed hb _ ht =>
    cases State.complete_completed ht with
    | failed e _ => exact ⟨absurd rfl, absurd rfl⟩
    | ok i r hd hr =>
      refine ⟨fun hp => ⟨hb, ?_⟩, fun hde => ⟨hb, ?_⟩⟩
      · rcases hr.p.resolve_left hp with rfl | rfl
        · exact .inl hd
        · exact .inr hd
      · rcases (hr.de.resolve_left hde).1 with rfl | rfl
        · exact .inl hd
        · exact .inr hd
  | driven b hturn _ => exact absurd hturn (hnr b)

/-! #### BUSY (R29) -/

/-- A host write starts a command, or leaves `busy`. -/
theorem State.writeReg_busy (s : State) (r : Reg) (w : Word) :
    (s.writeReg r w).busy = s.busy ∨
    (r = .cmd ∧ s.busy = false ∧ (s.writeReg r w).busy = true ∧ (s.writeReg r w).pending = w) := by
  obtain e | ⟨-, e⟩ | ⟨-, e⟩ | ⟨-, e⟩ | ⟨hr, hb, e⟩ | ⟨-, e⟩ := s.writeReg_cases r w
  · exact .inl (by rw [e])
  · exact .inl (by rw [e])
  · exact .inl (by rw [e])
  · exact .inl (by rw [e])
  · exact .inr ⟨hr, hb, by rw [e], by rw [e]⟩
  · obtain ⟨-, -, -, -, hbusy, -⟩ := s.storeReg_frame r w
    exact .inl (by rw [e, hbusy])

/-- All that a step but the reset input's can do to `busy`. -/
inductive State.BusyStepped (s t : State) : Prop where
  | kept (h : t.busy = s.busy)
  | started (w : Word) (rest : List HostOp) (hh : s.host = .access (.write 0x00C .w32 w) :: rest)
      (hs : s.busy = false) (ht : t.busy = true) (hp : t.pending = w)
  | ended (hturn : s.turns = [] ∨ s.turns.head? = some .unit) (hs : s.busy = true)
      (ht : t.busy = false)

theorem step_busyStepped {s t : State} (h : step s = .next t)
    (hnr : ∀ b, s.turns.head? ≠ some (.reset b)) : s.BusyStepped t := by
  cases step_stepped h with
  | quiet hq => exact .kept (by rw [hq])
  | wrote r w rest hh _ ht =>
    subst ht
    obtain hb | ⟨rfl, hs, ht, hp⟩ :=
      State.writeReg_busy { s with turns := s.turns.tail, host := rest } r w
    · exact .kept hb
    · exact .started w rest hh hs ht hp
  | completed hb hturn ht =>
    exact .ended hturn hb (State.complete_sameAgents ht).1
  | driven b hturn _ => exact absurd hturn (hnr b)

/-! #### The stored STATUS bits (R30 to R32) -/

/-- All that a host write can do to STATUS: clear bits, or be dropped with OVR. -/
theorem State.writeReg_status (s : State) (r : Reg) (w : Word) :
    (s.writeReg r w).status = s.status ∨
    (r = .status ∧ (s.writeReg r w).status = s.status.clear w) ∨
    (s.busy = true ∧ (r = .cmd ∨ r.frozen = true) ∧
      (s.writeReg r w).status = { s.status with ovr := true }) := by
  cases hb : s.busy with
  | true =>
    cases r <;>
      simp [State.writeReg, State.writeOperand_busy hb, State.acceptCommand_busy hb, Reg.frozen]
  | false =>
    obtain e | ⟨-, e⟩ | ⟨hr, e⟩ | ⟨hbusy, -⟩ | ⟨-, -, e⟩ | ⟨-, e⟩ := s.writeReg_cases r w
    · exact .inl (by rw [e])
    · exact .inl (by rw [e])
    · exact .inr (.inl ⟨hr, by rw [e]⟩)
    · simp [hb] at hbusy
    · exact .inl (by rw [e])
    · obtain ⟨-, hst, -⟩ := s.storeReg_frame r w
      exact .inl (by rw [e, hst])

/-- All that a step but the reset input's can do to the stored STATUS bits. -/
inductive State.StatusStepped (s t : State) : Prop where
  | kept (h : t.status = s.status)
  | cleared (w : Word) (rest : List HostOp) (hh : s.host = .access (.write 0x010 .w32 w) :: rest)
      (h : t.status = s.status.clear w)
  | dropped (r : Reg) (w : Word) (rest : List HostOp)
      (hh : s.host = .access (.write r.offset .w32 w) :: rest) (hr : r = .cmd ∨ r.frozen = true)
      (hb : s.busy = true) (h : t.status = { s.status with ovr := true })
  | finished (i : Instr) (hd : decode s.pending = some i) (hb : s.busy = true) (ht : t.busy = false)
      (h : t.status = { s.status with done := true })
  | failed (e : CmdError) (he : e.Listed) (hb : s.busy = true) (ht : t.busy = false)
      (h : t.status = s.status.latch e.code.code (BitVec.ofNat 8 e.info.index))

theorem step_statusStepped {s t : State} (h : step s = .next t)
    (hnr : ∀ b, s.turns.head? ≠ some (.reset b)) : s.StatusStepped t := by
  cases step_stepped h with
  | quiet hq => exact .kept (by rw [hq])
  | wrote r w rest hh _ ht =>
    subst ht
    obtain hst | ⟨rfl, hst⟩ | ⟨hb, hr, hst⟩ :=
      State.writeReg_status { s with turns := s.turns.tail, host := rest } r w
    · exact .kept hst
    · exact .cleared w rest hh hst
    · exact .dropped r w rest hh hr hb hst
  | completed hb _ ht =>
    cases State.complete_completed ht with
    | ok i r hd hr => exact .finished i hd hb rfl (by rw [State.finish_status, hr.status])
    | failed e he => exact .failed e he hb rfl rfl
  | driven b hturn _ => exact absurd hturn (hnr b)

section Bits

variable {s t : State} (h : s.StatusStepped t)

include h

theorem State.StatusStepped.done_rises (h0 : s.status.done = false) (h1 : t.status.done = true) :
    s.busy = true ∧ t.busy = false ∧ ∃ i, decode s.pending = some i := by
  cases h with
  | finished i hd hb ht _ => exact ⟨hb, ht, i, hd⟩
  | kept hst | dropped _ _ _ _ _ _ hst => simp [hst, h0] at h1
  | cleared _ _ _ hst => simp [hst, Status.clear, h0] at h1
  | failed _ _ _ _ hst => simp [hst, Status.latch_eq, h0] at h1

theorem State.StatusStepped.done_falls (h1 : s.status.done = true) (h0 : t.status.done = false) :
    ∃ w rest, s.host = .access (.write 0x010 .w32 w) :: rest ∧ w.getLsbD 1 = true := by
  cases h with
  | cleared w rest hh hst =>
    exact ⟨w, rest, hh, by simpa [hst, Status.clear, h1] using h0⟩
  | kept hst | dropped _ _ _ _ _ _ hst | finished _ _ _ _ hst => simp [hst, h1] at h0
  | failed _ _ _ _ hst => simp [hst, Status.latch_eq, h1] at h0

theorem State.StatusStepped.err_rises (h0 : s.status.err = false) (h1 : t.status.err = true) :
    s.busy = true ∧ t.busy = false ∧
    (t.status.errCode.toNat, t.status.errInfo.toNat) ∈ errorPairs := by
  cases h with
  | failed e he hb ht hst =>
    refine ⟨hb, ht, ?_⟩
    rw [hst, Status.latch, h0]
    exact he
  | kept hst | dropped _ _ _ _ _ _ hst | finished _ _ _ _ hst => simp [hst, h0] at h1
  | cleared _ _ _ hst => simp [hst, Status.clear, h0] at h1

/-- While ERR stays 1 the pair it holds is kept (R225). -/
theorem State.StatusStepped.err_held (h1 : s.status.err = true) (h1' : t.status.err = true) :
    t.status.errCode = s.status.errCode ∧ t.status.errInfo = s.status.errInfo := by
  cases h with
  | kept hst | dropped _ _ _ _ _ _ hst | finished _ _ _ _ hst => simp [hst]
  | failed _ _ _ _ hst => simp [hst, Status.latch_eq, h1]
  | cleared w _ _ hst =>
    have hw : w.getLsbD 2 = false := by simpa [hst, Status.clear, h1] using h1'
    simp only [hst, Status.clear, hw]
    exact ⟨rfl, rfl⟩

/-- While ERR stays 0 a coherent latch holds no pair before or after (R31). -/
theorem State.StatusStepped.err_absent (hc : s.status.Coherent) (h0 : s.status.err = false)
    (h0' : t.status.err = false) :
    t.status.errCode = s.status.errCode ∧ t.status.errInfo = s.status.errInfo := by
  cases h with
  | kept hst | dropped _ _ _ _ _ _ hst | finished _ _ _ _ hst => simp [hst]
  | failed _ _ _ _ hst => simp [hst, Status.latch_eq] at h0'
  | cleared w _ _ hst =>
    have hc' : t.status.Coherent := hst ▸ hc.clear w
    simp only [Status.Coherent, h0, h0', Bool.false_eq_true, if_false] at hc hc'
    obtain ⟨hcode, hinfo⟩ := hc
    rw [hcode, hinfo]
    exact hc'

theorem State.StatusStepped.err_falls (h1 : s.status.err = true) (h0 : t.status.err = false) :
    t.status.errCode = 0 ∧ t.status.errInfo = 0 ∧
    ∃ w rest, s.host = .access (.write 0x010 .w32 w) :: rest ∧ w.getLsbD 2 = true := by
  cases h with
  | cleared w rest hh hst =>
    have hw : w.getLsbD 2 = true := by simpa [hst, Status.clear, h1] using h0
    simp only [hst, Status.clear, hw]
    exact ⟨rfl, rfl, w, rest, hh, hw⟩
  | kept hst | dropped _ _ _ _ _ _ hst | finished _ _ _ _ hst => simp [hst, h1] at h0
  | failed _ _ _ _ hst => simp [hst, Status.latch_eq] at h0

theorem State.StatusStepped.ovr_rises (h0 : s.status.ovr = false) (h1 : t.status.ovr = true) :
    s.busy = true ∧ ∃ (r : Reg) (w : Word) (rest : List HostOp),
      s.host = .access (.write r.offset .w32 w) :: rest ∧ (r = .cmd ∨ r.frozen = true) := by
  cases h with
  | dropped r w rest hh hr hb _ => exact ⟨hb, r, w, rest, hh, hr⟩
  | kept hst | finished _ _ _ _ hst => simp [hst, h0] at h1
  | cleared _ _ _ hst => simp [hst, Status.clear, h0] at h1
  | failed _ _ _ _ hst => simp [hst, Status.latch_eq, h0] at h1

theorem State.StatusStepped.ovr_falls (h1 : s.status.ovr = true) (h0 : t.status.ovr = false) :
    ∃ w rest, s.host = .access (.write 0x010 .w32 w) :: rest ∧ w.getLsbD 3 = true := by
  cases h with
  | cleared w rest hh hst =>
    exact ⟨w, rest, hh, by simpa [hst, Status.clear, h1] using h0⟩
  | kept hst | finished _ _ _ _ hst => simp [hst, h1] at h0
  | dropped _ _ _ _ _ _ hst => simp [hst] at h0
  | failed _ _ _ _ hst => simp [hst, Status.latch_eq, h1] at h0

end Bits

section Busy

variable {s t : State} (h : s.BusyStepped t)

include h

theorem State.BusyStepped.rises (h0 : s.busy = false) (h1 : t.busy = true) :
    ∃ w rest, s.host = .access (.write 0x00C .w32 w) :: rest ∧ t.pending = w := by
  cases h with
  | started w rest hh _ _ hp => exact ⟨w, rest, hh, hp⟩
  | kept hb => simp [hb, h0] at h1
  | ended _ hs => simp [hs] at h0

theorem State.BusyStepped.falls (h1 : s.busy = true) (h0 : t.busy = false) :
    s.turns = [] ∨ s.turns.head? = some .unit := by
  cases h with
  | ended hturn => exact hturn
  | kept hb => simp [hb, h1] at h0
  | started _ _ _ hs => simp [hs] at h1

end Busy

/-- Settles O17: each bit by what a step can do to `busy` and to the stored bits. -/
theorem statusBitsChangeOnlyAsTold : Obligations.StatusBitsChangeOnlyAsTold := by
  intro s t h hnr
  have hb := step_busyStepped h hnr
  have hst := step_statusStepped h hnr
  exact ⟨hb.rises, hb.falls, hst.done_rises, hst.done_falls, hst.err_rises, hst.err_held,
    hst.err_absent, hst.err_falls, hst.ovr_rises, hst.ovr_falls⟩

end Sys2Proof.Machine
end

section
/-! ### The word in flight shows nowhere while the unit is idle (R41) -/

namespace Sys2Proof.Machine

/-- The state with another hidden word. -/
def State.withWord (s : State) (w : Word) : State := { s with pending := w }

theorem State.withWord_sameRegs (s : State) (w : Word) : s.SameRegs (s.withWord w) := rfl

@[simp] theorem State.withWord_busy (s : State) (w : Word) : (s.withWord w).busy = s.busy := rfl

/-- The outcome `o'` is `o` with another hidden word, and with the same one where a command is in
flight. -/
def SameButIdleWord (o o' : Host.Outcome State Fault Refusal) : Prop :=
  (∀ t, o = .next t → ∃ v, o' = .next (t.withWord v) ∧ (t.busy = true → v = t.pending)) ∧
  (∀ f, o = .fault f → o' = .fault f)

/-- A next state with the unit idle may hold any word. -/
theorem SameButIdleWord.of_idle {t : State} (hb : t.busy = false) (v : Word) :
    SameButIdleWord (.next t) (.next (t.withWord v)) := by
  refine ⟨fun t' ht => ?_, nofun⟩
  cases ht
  exact ⟨v, rfl, by simp [hb]⟩

theorem SameButIdleWord.same_next (t : State) : SameButIdleWord (.next t) (.next t) := by
  refine ⟨fun t' ht => ?_, nofun⟩
  cases ht
  exact ⟨t.pending, rfl, fun _ => rfl⟩

theorem SameButIdleWord.same_fault (f : Fault) : SameButIdleWord (.fault f) (.fault f) := by
  refine ⟨fun t ht => ?_, fun _ hf => hf⟩
  cases ht

/-! #### What the operations do to another hidden word: they carry it along -/

theorem State.busRead_withWord (s : State) (w : Word) (i : Nat) :
    (s.withWord w).busRead i = ((s.busRead i).1, (s.busRead i).2.withWord w) := by
  unfold State.busRead
  rw [(s.withWord_sameRegs w).wordAt]
  cases hr : s.inReset <;> simp [State.withWord, hr]

theorem State.pollMove_withWord (s : State) (w : Word) (rest : List HostOp) :
    (s.withWord w).pollMove rest = (s.pollMove rest).withWord w := by
  unfold State.pollMove
  rw [State.busRead_withWord]
  rfl

theorem State.storeReg_withWord (s : State) (w : Word) (r : Reg) (d : Word) :
    (s.withWord w).storeReg r d = (s.storeReg r d).withWord w := by
  cases r with
  | yuv side c | rgb side c | lab side c => cases side <;> rfl
  | _ => rfl

theorem State.writeOperand_withWord (s : State) (w : Word) (r : Reg) (d : Word) :
    (s.withWord w).writeOperand r d = (s.writeOperand r d).withWord w := by
  unfold State.writeOperand
  rw [State.storeReg_withWord, State.withWord_busy]
  split <;> rfl

theorem State.writeReg_withWord (s : State) (w : Word) {r : Reg} (hr : r ≠ .cmd) (d : Word) :
    (s.withWord w).writeReg r d = (s.writeReg r d).withWord w := by
  cases r with
  | cmd => exact absurd rfl hr
  | id | ctrl | status | p | de => rfl
  | _ => exact s.writeOperand_withWord w _ d

/-! #### The moves of an idle machine -/

section Idle

variable {s : State} (hb : s.busy = false) (w : Word)

include hb

/-- Of the register writes only that of `CMD` touches the hidden word, and it replaces it. -/
theorem State.writeReg_idleWord (r : Reg) (d : Word) :
    SameButIdleWord (.next (s.writeReg r d)) (.next ((s.withWord w).writeReg r d)) := by
  obtain rfl | hr := eq_or_ne r .cmd
  · have e : (s.withWord w).writeReg .cmd d = s.writeReg .cmd d := by
      simp [State.writeReg, State.acceptCommand, hb, State.withWord]
    rw [e]
    exact .same_next _
  · rw [s.writeReg_withWord w hr]
    obtain e | ⟨h, -⟩ := s.writeReg_busy r d
    · exact .of_idle (e.trans hb) w
    · exact absurd h hr

theorem State.writeWord_idleWord (i : Nat) (d : Word) :
    SameButIdleWord (.next (s.writeWord i d)) (.next ((s.withWord w).writeWord i d)) := by
  unfold State.writeWord
  cases Reg.ofIndex i with
  | none => exact .of_idle hb w
  | some r => exact State.writeReg_idleWord hb w r d

theorem State.busAccess_idleWord (a : Access) :
    SameButIdleWord (s.busAccess a) ((s.withWord w).busAccess a) := by
  cases hacc : a.accepted with
  | false =>
    rw [State.busAccess_refused hacc, State.busAccess_refused hacc]
    exact .same_fault _
  | true =>
    unfold State.busAccess
    rw [if_pos hacc, if_pos hacc]
    cases a with
    | read off width =>
      have hidle : (s.busRead (off.toNat / 4)).2.busy = false := by rw [s.busRead_sameUnit _, hb]
      simp only [State.busRead_withWord]
      exact SameButIdleWord.of_idle (t := State.returned _ _) hidle w
    | write off width d =>
      have hr : (s.withWord w).inReset = s.inReset := rfl
      simp only [hr]
      cases s.inReset with
      | true => exact SameButIdleWord.of_idle hb w
      | false => exact State.writeWord_idleWord hb w (off.toNat / 4) d

theorem State.hostMove_idleWord : SameButIdleWord s.hostMove (s.withWord w).hostMove := by
  have hh : (s.withWord w).host = s.host := rfl
  unfold State.hostMove
  rw [hh]
  cases s.host with
  | nil => exact .of_idle hb w
  | cons op rest =>
    cases op with
    | access a => exact State.busAccess_idleWord (s := { s with host := rest }) hb w a
    | poll =>
      have hidle : (s.pollMove rest).busy = false := by rw [s.pollMove_sameUnit rest, hb]
      simp only [State.pollMove_withWord]
      exact .of_idle hidle w

theorem State.move_idleWord (turn : Turn) :
    SameButIdleWord (s.move turn) ((s.withWord w).move turn) := by
  cases turn with
  | host => exact State.hostMove_idleWord hb w
  | unit =>
    rw [State.move, State.move, State.unitMove_idle hb, State.unitMove_idle (s := s.withWord w) hb]
    exact .of_idle hb w
  | reset b =>
    cases b with
    | true => exact .same_next _
    | false => exact SameButIdleWord.of_idle (t := s.driveReset false) hb w

theorem step_idleWord : SameButIdleWord (step s) (step (s.withWord w)) := by
  cases ht : s.turns with
  | nil =>
    rw [step_of_no_turn ht, step_of_no_turn (s := s.withWord w) ht]
    exact State.move_idleWord hb w _
  | cons turn rest =>
    rw [step_of_turn ht, step_of_turn (s := s.withWord w) ht]
    exact State.move_idleWord (s := { s with turns := rest }) hb w turn

end Idle

/-- Settles O29: no move reads the idle word, and the one that starts a command replaces it. -/
theorem pendingIsInvisibleWhileIdle : Obligations.PendingIsInvisibleWhileIdle :=
  fun _ w hb => step_idleWord hb w

end Sys2Proof.Machine
end

section
/-! ### The host's accesses: which are performed, what a read sees, what a write does -/

namespace Sys2Proof.Machine

/-! #### Which accesses are performed (R63, R247) -/

theorem Access.accepted_read {off : BitVec 12} {width : Width} :
    (Access.read off width).accepted = true ↔ width = .w32 ∧ off.toNat % 4 = 0 := by
  simp [Access.accepted]

theorem State.busAccess_performed (s : State) {a : Access} (h : a.accepted = true) :
    ∃ t, s.busAccess a = .next t := by
  cases a <;> simp [State.busAccess, h]

/-- Settles O9: both accesses are accepted exactly when they are 32 bits wide and aligned. -/
theorem onlyAlignedWordAccessesArePerformed : Obligations.OnlyAlignedWordAccessesArePerformed := by
  intro s off width w
  constructor
  · intro h
    have hbad : ¬(width = .w32 ∧ off.toNat % 4 = 0) := not_and_or.2 h
    exact ⟨State.busAccess_refused (Bool.eq_false_iff.2 (mt Access.accepted_read.1 hbad)),
      State.busAccess_refused (Bool.eq_false_iff.2 (mt Access.accepted_write.1 hbad))⟩
  · intro hwidth halign
    exact ⟨s.busAccess_performed (Access.accepted_read.2 ⟨hwidth, halign⟩),
      s.busAccess_performed (Access.accepted_write.2 ⟨hwidth, halign⟩)⟩

/-! #### Reads (R64, R70) -/

/-- Settles O10: a register's offset is aligned, and the window at its index is the register. -/
theorem readsHaveNoSideEffect : Obligations.ReadsHaveNoSideEffect := by
  intro s r hr
  rw [State.busAccess_read_aligned hr r.offset_mod, r.offset_div, State.wordAt_index]
  rfl

/-! #### What a write to a register does, by the kind of register (R65 to R67) -/

theorem State.writeReg_frozen (s : State) {r : Reg} (h : r.frozen = true) (w : Word) :
    s.writeReg r w = s.writeOperand r w := by
  cases r with
  | id | ctrl | cmd | status | p | de => cases h
  | _ => rfl

theorem State.writeReg_readOnly (s : State) {r : Reg} (h : r = .id ∨ r = .p ∨ r = .de) (w : Word) :
    s.writeReg r w = s := by
  rcases h with rfl | rfl | rfl <;> rfl

/-- While busy a write to `CMD`, `CFG`, a weight or an operand register is dropped with OVR (R67). -/
theorem State.writeReg_dropped {s : State} (hb : s.busy = true) {r : Reg}
    (h : r = .cmd ∨ r.frozen = true) (w : Word) :
    s.writeReg r w = { s with status := { s.status with ovr := true } } := by
  rcases h with rfl | h
  · exact s.acceptCommand_busy hb w
  · rw [s.writeReg_frozen h, State.writeOperand_busy hb]

/-- Settles O13: `CMD` stands at 0x00C, and a write to it is `accept_command`. -/
theorem commandAcceptance : Obligations.CommandAcceptance := by
  intro s w hr
  have h : s.busAccess (.write 0x00C .w32 w) = .next (s.acceptCommand w) :=
    State.busAccess_write_reg hr .cmd w
  rw [h]
  exact ⟨fun hb => by rw [s.acceptCommand_busy hb], fun hb => by rw [s.acceptCommand_idle hb]⟩

/-! #### Reading after a write (R23, R65) -/

/-- Keeping the low `k` bits of a word is masking it. -/
theorem setWidth_setWidth_eq_and (w : Word) {k : Nat} (h : k ≤ 32) :
    (w.setWidth k).setWidth 32 = w &&& BitVec.ofNat 32 (2 ^ k - 1) := by
  have hk : 2 ^ k ≤ 2 ^ 32 := Nat.pow_le_pow_right (by decide) h
  apply BitVec.eq_of_toNat_eq
  have hpos := Nat.two_pow_pos k
  rw [BitVec.toNat_and, BitVec.toNat_ofNat, Nat.mod_eq_of_lt (a := 2 ^ k - 1) (by omega),
    Nat.and_two_pow_sub_one_eq_mod, BitVec.toNat_setWidth_of_le h, BitVec.toNat_setWidth]

/-- A replaced bank shows only where its registers differ from the old one's. -/
theorem State.readReg_setBank {s : State} {side : Side} {b : Bank} {r : Reg}
    (hyuv : ∀ c, r = .yuv side c → b.yuv.get c = (s.bank side).yuv.get c)
    (hrgb : ∀ c, r = .rgb side c → b.rgb.get c = (s.bank side).rgb.get c)
    (hlab : ∀ c, r = .lab side c → b.lab.get c = (s.bank side).lab.get c) :
    (s.setBank side b).readReg r = s.readReg r := by
  cases r with
  | yuv other c =>
    obtain rfl | hne := eq_or_ne side other
    · simp [State.readReg, hyuv c rfl]
    · simp [State.readReg, State.bank_setBank_of_ne s hne]
  | rgb other c =>
    obtain rfl | hne := eq_or_ne side other
    · simp [State.readReg, hrgb c rfl]
    · simp [State.readReg, State.bank_setBank_of_ne s hne]
  | lab other c =>
    obtain rfl | hne := eq_or_ne side other
    · simp [State.readReg, hlab c rfl]
    · simp [State.readReg, State.bank_setBank_of_ne s hne]
  | _ => simp [State.readReg, State.statusWord]

/-- A stored operand reads as the word's writable bits (R23). -/
theorem State.readReg_storeReg_same (s : State) {r : Reg} (h : r.frozen = true) (w : Word) :
    (s.storeReg r w).readReg r = w &&& r.writable := by
  cases r with
  | id | ctrl | cmd | status | p | de => cases h
  | kl | kc | kh | x => exact BitVec.and_allOnes.symm
  | cfg => exact setWidth_setWidth_eq_and w (k := 2) (by decide)
  | yuv side c =>
    simp only [State.storeReg, State.readReg, State.bank_setBank, Yuv.get_set, if_true]
    exact setWidth_setWidth_eq_and w (k := 16) (by decide)
  | rgb side c =>
    simp only [State.storeReg, State.readReg, State.bank_setBank, Rgb.get_set, if_true]
    exact BitVec.and_allOnes.symm
  | lab side c =>
    simp only [State.storeReg, State.readReg, State.bank_setBank, Lab.get_set, if_true]
    exact BitVec.and_allOnes.symm

/-- Storing an operand leaves every other register. -/
theorem State.readReg_storeReg_of_ne (s : State) {r r' : Reg} (hne : r' ≠ r) (w : Word) :
    (s.storeReg r w).readReg r' = s.readReg r' := by
  cases r with
  | yuv side c =>
    refine State.readReg_setBank (fun c' hc' => ?_) (fun _ _ => rfl) (fun _ _ => rfl)
    rw [Yuv.get_set, if_neg (by rintro rfl; exact hne hc')]
  | rgb side c =>
    refine State.readReg_setBank (fun _ _ => rfl) (fun c' hc' => ?_) (fun _ _ => rfl)
    rw [Rgb.get_set, if_neg (by rintro rfl; exact hne hc')]
  | lab side c =>
    refine State.readReg_setBank (fun _ _ => rfl) (fun _ _ => rfl) (fun c' hc' => ?_)
    rw [Lab.get_set, if_neg (by rintro rfl; exact hne hc')]
  | id | ctrl | cmd | status | p | de => rfl
  | cfg | kl | kc | kh | x =>
    cases r' with
    | cfg | kl | kc | kh | x => first | rfl | exact absurd rfl hne
    | _ => rfl

/-- Writing `CTRL` leaves every register but `CTRL`. -/
theorem State.readReg_withIe_of_ne (s : State) (b : Bool) {r : Reg} (hne : r ≠ .ctrl) :
    ({ s with ie := b } : State).readReg r = s.readReg r := by
  cases r with
  | ctrl => exact absurd rfl hne
  | yuv side c | rgb side c | lab side c => cases side <;> rfl
  | _ => rfl

theorem bit_getLsbD_zero (w : Word) : bit (w.getLsbD 0) = w.setWidth 1 := by
  ext i hi
  obtain rfl : i = 0 := by omega
  simp [bit]

/-- Settles O11: `CTRL` is the bit stored, and an operand's register is stored and read alone. -/
theorem readFollowsWrite : Obligations.ReadFollowsWrite := by
  intro s r w hr hw
  refine ⟨_, State.busAccess_write_reg hr r w, ?_⟩
  rcases hw with rfl | ⟨hf, hb⟩
  · refine ⟨?_, fun _ hne => s.readReg_withIe_of_ne _ hne, rfl, rfl⟩
    show (bit (w.getLsbD 0)).setWidth 32 = _
    rw [bit_getLsbD_zero]
    exact setWidth_setWidth_eq_and w (k := 1) (by decide)
  · rw [s.writeReg_frozen hf, State.writeOperand_idle hb]
    obtain ⟨-, -, -, -, hbusy, hpending, -⟩ := s.storeReg_frame r w
    exact ⟨s.readReg_storeReg_same hf w, fun _ hne => s.readReg_storeReg_of_ne hne w, hpending,
      hbusy⟩

/-! #### Writing the same word twice (R65) -/

theorem State.storeReg_idem (s : State) (r : Reg) (w : Word) :
    (s.storeReg r w).storeReg r w = s.storeReg r w := by
  cases r with
  | yuv side c | rgb side c | lab side c => cases side <;> cases c <;> rfl
  | _ => rfl

/-- A dropped write sets OVR again; a performed one stores the same bits again. -/
theorem State.writeOperand_idem (s : State) (r : Reg) (w : Word) :
    (s.writeOperand r w).writeOperand r w = s.writeOperand r w := by
  cases hb : s.busy with
  | true =>
    rw [State.writeOperand_busy hb]
    exact State.writeOperand_busy (s := { s with status := { s.status with ovr := true } }) hb r w
  | false =>
    obtain ⟨-, -, -, -, hbusy, -⟩ := s.storeReg_frame r w
    rw [State.writeOperand_idle hb, State.writeOperand_idle (hbusy.trans hb), State.storeReg_idem]

theorem State.writeReg_idem (s : State) {r : Reg} (hcmd : r ≠ .cmd) (hstatus : r ≠ .status)
    (w : Word) : (s.writeReg r w).writeReg r w = s.writeReg r w := by
  cases r with
  | cmd => exact absurd rfl hcmd
  | status => exact absurd rfl hstatus
  | id | ctrl | p | de => rfl
  | _ => exact s.writeOperand_idem _ w

/-- Settles O12: during reset neither write does anything; out of reset the register write is
idempotent. -/
theorem writingTwiceIsWritingOnce : Obligations.WritingTwiceIsWritingOnce := by
  intro s t u r w hcmd hstatus ht hu
  have ht := State.busAccess_write_next ht
  have hu := State.busAccess_write_next hu
  rw [r.offset_div, State.writeWord_index] at ht hu
  cases hr : s.inReset with
  | true =>
    obtain rfl : t = s := by simpa [hr] using ht
    simpa [hr] using hu
  | false =>
    obtain rfl : t = s.writeReg r w := by simpa [hr] using ht
    obtain ⟨-, -, hreset⟩ := s.writeReg_frame r w
    simpa [hreset, hr, s.writeReg_idem hcmd hstatus w] using hu

/-! #### What a command reads stays from acceptance to completion (R67) -/

/-- A clear of R65, bit by bit. -/
theorem Status.clear_eq (f : Status) (w : Word) :
    f.clear w =
      { done := if w.getLsbD 1 then false else f.done
        err := if w.getLsbD 2 then false else f.err
        errCode := if w.getLsbD 2 then 0 else f.errCode
        errInfo := if w.getLsbD 2 then 0 else f.errInfo
        ovr := if w.getLsbD 3 then false else f.ovr } := by
  have hand (b c : Bool) : (b && !c) = if c then false else b := by cases c <;> simp
  simp only [Status.clear, hand]

/-- Neither the command in flight nor a register other than STATUS and `CTRL` differs. -/
def State.SameOperands (s t : State) : Prop :=
  t = { s with
    ie := t.ie, status := t.status, inReset := t.inReset, host := t.host, turns := t.turns
    reads := t.reads, freeReads := t.freeReads }

theorem State.SameOperands.readReg {s t : State} (h : s.SameOperands t) {r : Reg} (hs : r ≠ .status)
    (hc : r ≠ .ctrl) : t.readReg r = s.readReg r := by
  rw [h]
  cases r with
  | status => exact absurd rfl hs
  | ctrl => exact absurd rfl hc
  | yuv side c | rgb side c | lab side c => cases side <;> rfl
  | _ => rfl

/-- A host write while busy touches STATUS and `CTRL` at most. -/
theorem State.writeReg_sameOperands {s : State} (hb : s.busy = true) (r : Reg) (w : Word) :
    s.SameOperands (s.writeReg r w) := by
  unfold State.SameOperands
  cases r <;> simp [State.writeReg, State.writeOperand_busy hb, State.acceptCommand_busy hb]

/-- A step from busy to busy is no completion and no reset. -/
theorem step_sameOperands {s t : State} (h : step s = .next t) (hs : s.busy = true)
    (ht : t.busy = true) : s.SameOperands t := by
  cases step_stepped h with
  | quiet hq =>
    unfold State.SameOperands
    rw [hq]
  | wrote r w rest _ _ e =>
    subst e
    exact State.writeReg_sameOperands (s := { s with turns := s.turns.tail, host := rest }) hs r w
  | completed _ _ hc =>
    obtain ⟨hidle, -⟩ := State.complete_sameAgents hc
    simp [hidle] at ht
  | driven b _ e =>
    subst e
    cases b with
    | true => cases ht
    | false => rfl

/-- Settles O14: each kind of register by its write rule, and the step by its frame. -/
theorem busyFreezesOperands : Obligations.BusyFreezesOperands := by
  refine ⟨fun s r w hb hr => ⟨fun h => ?_, ?_, ?_⟩, fun s r w hr h => ?_, fun s off w hr ha hres => ?_,
    fun s t h hs ht => ?_⟩
  · rw [State.busAccess_write_reg hr, State.writeReg_dropped hb h]
  · rintro rfl
    exact State.busAccess_write_reg hr .ctrl w
  · rintro rfl
    rw [State.busAccess_write_reg hr, State.writeReg, Status.clear_eq]
  · rw [State.busAccess_write_reg hr, s.writeReg_readOnly h]
  · exact (reservedOffsetsReadZeroIgnoreWrites s off hr ha hres).2 w
  · have hsame := step_sameOperands h hs ht
    exact ⟨by rw [hsame], fun r hstatus hctrl => hsame.readReg hstatus hctrl⟩

end Sys2Proof.Machine
end

section
/-! ### The turns other than a completion's, and a host that writes a command and polls -/

namespace Sys2Proof.Machine

theorem State.hostMove_access {s : State} {a : Access} {rest : List HostOp}
    (h : s.host = .access a :: rest) : s.hostMove = { s with host := rest }.busAccess a := by
  simp [State.hostMove, h]

/-- Settles O23: the step is the move of the agent whose turn it is, in the state
with the turn used up. -/
theorem stepPerformsTheOtherMoves : Obligations.StepPerformsTheOtherMoves := by
  intro s ts
  refine ⟨fun a rest ht hh => ?_, fun rest ht hh hr => ?_, fun ht hh => ?_, fun ht hb => ?_,
    fun ht hb hh => ?_, fun ht => ?_⟩
  · rw [step_of_turn ht]
    exact State.hostMove_access (s := { s with turns := ts }) hh
  · rw [step_of_turn ht]
    exact State.hostMove_poll (s := { s with turns := ts }) hh hr
  · rw [step_of_turn ht]
    exact State.hostMove_nil (s := { s with turns := ts }) hh
  · rw [step_of_turn ht]
    exact State.unitMove_idle (s := { s with turns := ts }) hb
  · rw [step_of_no_turn ht, State.defaultTurn, hb]
    exact State.hostMove_nil hh
  · rw [step_of_turn ht]
    rfl

/-! #### What a machine shows that differs from another in its agents only -/

theorem State.SameUnit.busy {s t : State} (h : s.SameUnit t) : t.busy = s.busy := by rw [h]

theorem State.SameUnit.inReset {s t : State} (h : s.SameUnit t) : t.inReset = s.inReset := by rw [h]

theorem State.SameUnit.setAgents {s t : State} (h : s.SameUnit t) (ops : List HostOp)
    (ts : List Turn) (words : List Word) :
    s.SameUnit { t with host := ops, turns := ts, reads := words } := by
  unfold State.SameUnit
  rw [h]

/-! #### A completion does not depend on what is the host's and the platform's -/

/-- The unit of `s` with the host and the turns of `a`. -/
def State.withAgentsOf (s a : State) : State :=
  { s with host := a.host, turns := a.turns, reads := a.reads, freeReads := a.freeReads }

theorem State.SameUnit.eq_withAgentsOf {s t : State} (h : s.SameUnit t) : t = s.withAgentsOf t := h

theorem State.withAgentsOf_sameUnit (s a : State) : s.SameUnit (s.withAgentsOf a) := rfl

@[simp] theorem State.withAgentsOf_bd (s a : State) : (s.withAgentsOf a).bd = s.bd := rfl

@[simp] theorem State.withAgentsOf_weights (s a : State) :
    (s.withAgentsOf a).weights = s.weights := rfl

@[simp] theorem State.withAgentsOf_side1 (s a : State) : (s.withAgentsOf a).side1 = s.side1 := rfl

@[simp] theorem State.withAgentsOf_side2 (s a : State) : (s.withAgentsOf a).side2 = s.side2 := rfl

@[simp] theorem State.withAgentsOf_x (s a : State) : (s.withAgentsOf a).x = s.x := rfl

@[simp] theorem State.withAgentsOf_bank (s a : State) (side : Side) :
    (s.withAgentsOf a).bank side = s.bank side := by cases side <;> rfl

@[simp] theorem State.withAgentsOf_setRgb (s a : State) (side : Side) (v : Rgb) :
    (s.withAgentsOf a).setRgb side v = (s.setRgb side v).withAgentsOf a := by cases side <;> rfl

@[simp] theorem State.withAgentsOf_setLab (s a : State) (side : Side) (v : Lab) :
    (s.withAgentsOf a).setLab side v = (s.setLab side v).withAgentsOf a := by cases side <;> rfl

@[simp] theorem State.withAgentsOf_setP (s a : State) (w : Word) :
    (s.withAgentsOf a).setP w = (s.setP w).withAgentsOf a := rfl

@[simp] theorem State.withAgentsOf_setDe (s a : State) (w : Word) :
    (s.withAgentsOf a).setDe w = (s.setDe w).withAgentsOf a := rfl

@[simp] theorem State.withAgentsOf_setPixel (s a : State) (rgb1 rgb2 : Rgb) (lab1 lab2 : Lab)
    (w : Word) : (s.withAgentsOf a).setPixel rgb1 rgb2 lab1 lab2 w =
      (s.setPixel rgb1 rgb2 lab1 lab2 w).withAgentsOf a := by
  simp only [State.setPixel, State.withAgentsOf_setRgb, State.withAgentsOf_setLab,
    State.withAgentsOf_setDe]

/-- A completion's outcome in `s`, and in the unit of `s` with the agents of `a`. -/
def SameCompletion (a : State) (o o' : Host.Outcome State Fault Refusal) : Prop :=
  ∃ u, o = .next u ∧ o' = .next (u.withAgentsOf a)

theorem State.fail_withAgentsOf (s a : State) (e : CmdError) :
    SameCompletion a (.next (s.fail e)) (.next ((s.withAgentsOf a).fail e)) := ⟨_, rfl, rfl⟩

theorem State.settle_withAgentsOf (s a : State) (cs : List Check) (r : State) :
    SameCompletion a (s.settle cs r) ((s.withAgentsOf a).settle cs (r.withAgentsOf a)) := by
  cases hf : firstFailed cs with
  | none =>
    rw [State.settle_ok hf, State.settle_ok hf]
    exact ⟨_, rfl, rfl⟩
  | some e =>
    rw [State.settle_failed hf, State.settle_failed hf]
    exact s.fail_withAgentsOf a e

/-- A command reads and writes registers only. -/
theorem exec_withAgentsOf (i : Instr) (s a : State) :
    SameCompletion a (exec i s) (exec i (s.withAgentsOf a)) := by
  cases i with
  | nop => exact s.settle_withAgentsOf a [] s
  | de =>
    simp only [exec, execDe, State.withAgentsOf_side1, State.withAgentsOf_side2,
      State.withAgentsOf_weights, State.withAgentsOf_setDe]
    exact s.settle_withAgentsOf a _ _
  | pow24 =>
    simp only [exec, execPow24, State.withAgentsOf_x, State.withAgentsOf_setP]
    exact s.settle_withAgentsOf a _ _
  | lin =>
    simp only [exec, execLin, State.withAgentsOf_x, State.withAgentsOf_setP]
    exact s.settle_withAgentsOf a _ _
  | rgb2lab side =>
    simp only [exec, execRgb2lab, State.withAgentsOf_bank, State.withAgentsOf_setLab]
    exact s.settle_withAgentsOf a _ _
  | yuv2rgb side =>
    simp only [exec, execYuv2rgb, State.withAgentsOf_bd, State.withAgentsOf_bank,
      State.withAgentsOf_setRgb]
    split
    · exact s.fail_withAgentsOf a _
    · exact s.settle_withAgentsOf a _ _
  | cvt side =>
    simp only [exec, execCvt, State.withAgentsOf_bd, State.withAgentsOf_bank, State.withAgentsOf_setRgb,
      State.withAgentsOf_setLab]
    split
    · exact s.fail_withAgentsOf a _
    · exact s.settle_withAgentsOf a _ _
  | pixel =>
    simp only [exec, execPixel, State.withAgentsOf_bd, State.withAgentsOf_side1,
      State.withAgentsOf_side2, State.withAgentsOf_weights, State.withAgentsOf_setPixel]
    split
    · exact s.fail_withAgentsOf a _
    · exact s.settle_withAgentsOf a _ _

/-- Two machines that differ in their agents only complete alike. -/
theorem State.SameUnit.complete {s t u : State} (h : s.SameUnit t) (hu : s.complete = .next u) :
    ∃ v, t.complete = .next v ∧ u.SameUnit v ∧ v.host = t.host ∧ v.turns = t.turns := by
  have hsame : SameCompletion t s.complete t.complete := by
    rw [h.eq_withAgentsOf]
    cases hd : decode s.pending with
    | none =>
      rw [State.complete_of_illegal hd, State.complete_of_illegal (s := s.withAgentsOf t) hd]
      exact s.fail_withAgentsOf t _
    | some i =>
      rw [State.complete_of_decode hd, State.complete_of_decode (s := s.withAgentsOf t) hd]
      exact exec_withAgentsOf i s t
  obtain ⟨u', hu', ht⟩ := hsame
  obtain rfl := Host.Outcome.next.inj (hu'.symm.trans hu)
  exact ⟨_, ht, u'.withAgentsOf_sameUnit t, rfl, rfl⟩

/-! #### Runs under turns without a reset -/

/-- With no reset to come a step is the host's or the unit's move, with the turn used up. -/
theorem step_of_noReset {s : State} (hn : s.NoReset) :
    step s = { s with turns := s.turns.tail }.hostMove ∨
    step s = { s with turns := s.turns.tail }.unitMove := by
  obtain ⟨turn, hm, hturn⟩ := step_eq_move s
  cases turn with
  | host => exact .inl hm
  | unit => exact .inr hm
  | reset b =>
    rcases hturn with hturn | ⟨-, hdef⟩
    · exact absurd (hturn ▸ List.mem_cons_self) (hn b)
    · unfold State.defaultTurn at hdef
      split at hdef <;> cases hdef

/-- A property from which every step leads to a next state with it holds after any number of steps. -/
theorem run_of_step {P : State → Prop} (hstep : ∀ s, P s → ∃ t, step s = .next t ∧ P t) (n : Nat) :
    ∀ s, P s → ∃ t, core.run n s = .next t ∧ P t := by
  induction n with
  | zero => exact fun s hs => ⟨s, rfl, hs⟩
  | succ n ih =>
    intro s hs
    obtain ⟨t, ht, hPt⟩ := hstep s hs
    obtain ⟨v, hv, hPv⟩ := ih t hPt
    have hcore : core.step s = .next t := ht
    exact ⟨v, by simpa [Host.Core.run, hcore] using hv, hPv⟩

/-! #### The stages of a write to CMD and a poll -/

/-- The idle unit of `s` with `w` accepted (R66). -/
def State.accepted (s : State) (w : Word) : State := { s with busy := true, pending := w }

/-- Where a host that writes `w` to CMD and then polls stands, by the unit's state: `s` before the
write, `u` after the word's completion. -/
inductive PollStage (s : State) (w : Word) (u t : State) : Prop where
  | toWrite (hunit : s.SameUnit t) (hh : t.host = [.wr .cmd w, .poll])
  | inFlight (hunit : (s.accepted w).SameUnit t) (hh : t.host = [.poll])
  | toPoll (hunit : u.SameUnit t) (hh : t.host = [.poll])
  | ended (hunit : u.SameUnit t) (hh : t.host = []) (hread : t.reads.head? = some u.statusWord)

/-- The turns to come are no part of the stage. -/
theorem PollStage.withTurns {s u t : State} {w : Word} (h : PollStage s w u t) (ts : List Turn) :
    PollStage s w u { t with turns := ts } := by
  cases h with
  | toWrite hunit hh => exact .toWrite (hunit.setAgents _ ts _) hh
  | inFlight hunit hh => exact .inFlight (hunit.setAgents _ ts _) hh
  | toPoll hunit hh => exact .toPoll (hunit.setAgents _ ts _) hh
  | ended hunit hh hread => exact .ended (hunit.setAgents _ ts _) hh hread

/-- The unit after the completion is idle and still out of reset. -/
theorem accepted_complete_idle {s u : State} {w : Word} (hr : s.inReset = false)
    (hu : (s.accepted w).complete = .next u) : u.busy = false ∧ u.inReset = false := by
  obtain ⟨hidle, hsame⟩ := State.complete_sameAgents hu
  exact ⟨hidle, hsame.inReset.trans hr⟩

section Poll

variable {s u t : State} {w : Word} (hb : s.busy = false) (hr : s.inReset = false)
  (hu : (s.accepted w).complete = .next u)

include hb hr hu

theorem PollStage.hostMove (h : PollStage s w u t) :
    ∃ v, t.hostMove = .next v ∧ v.turns = t.turns ∧ PollStage s w u v := by
  obtain ⟨hub, hur⟩ := accepted_complete_idle hr hu
  cases h with
  | toWrite hunit hh =>
    have hwrite : t.hostMove = .next ({ t with host := [.poll] }.accepted w) := by
      rw [State.hostMove_wr hh (hunit.inReset.trans hr)]
      exact congrArg _ (State.acceptCommand_idle (s := { t with host := [.poll] })
        (hunit.busy.trans hb) w)
    refine ⟨_, hwrite, rfl, .inFlight ?_ rfl⟩
    rw [hunit]
    rfl
  | inFlight hunit hh =>
    have htb : t.busy = true := hunit.busy
    exact ⟨_, State.hostMove_poll hh (hunit.inReset.trans hr), rfl,
      .inFlight (hunit.setAgents _ _ _) (by simp [htb])⟩
  | toPoll hunit hh =>
    have htb : t.busy = false := hunit.busy.trans hub
    have hst : t.statusWord = u.statusWord := hunit.sameRegs.readReg .status
    exact ⟨_, State.hostMove_poll hh (hunit.inReset.trans hur), rfl,
      .ended (hunit.setAgents _ _ _) (by simp [htb]) (congrArg some hst)⟩
  | ended hunit hh hread => exact ⟨t, State.hostMove_nil hh, rfl, .ended hunit hh hread⟩

theorem PollStage.unitMove (h : PollStage s w u t) :
    ∃ v, t.unitMove = .next v ∧ v.turns = t.turns ∧ PollStage s w u v := by
  obtain ⟨hub, -⟩ := accepted_complete_idle hr hu
  have idle (ht : t.busy = false) :
      ∃ v, t.unitMove = .next v ∧ v.turns = t.turns ∧ PollStage s w u v :=
    ⟨t, State.unitMove_idle ht, rfl, h⟩
  cases h with
  | toWrite hunit => exact idle (hunit.busy.trans hb)
  | inFlight hunit hh =>
    obtain ⟨v, hv, hvu, hvh, hvt⟩ := hunit.complete hu
    exact ⟨v, (State.unitMove_busy hunit.busy).trans hv, hvt, .toPoll hvu (hvh.trans hh)⟩
  | toPoll hunit | ended hunit => exact idle (hunit.busy.trans hub)

theorem PollStage.step (h : t.NoReset ∧ PollStage s w u t) :
    ∃ v, Machine.step t = .next v ∧ v.NoReset ∧ PollStage s w u v := by
  obtain ⟨hn, h⟩ := h
  have noReset {v : State} (hts : v.turns = t.turns.tail) : v.NoReset :=
    fun b hmem => hn b (List.mem_of_mem_tail (hts ▸ hmem))
  rcases step_of_noReset hn with e | e
  · obtain ⟨v, hv, hts, hst⟩ := (h.withTurns t.turns.tail).hostMove hb hr hu
    exact ⟨v, e.trans hv, noReset hts, hst⟩
  · obtain ⟨v, hv, hts, hst⟩ := (h.withTurns t.turns.tail).unitMove hb hr hu
    exact ⟨v, e.trans hv, noReset hts, hst⟩

end Poll

/-- With the host done the poll has ended, since the other stages leave it something to do. -/
theorem PollStage.results {s u t : State} {w : Word} (h : PollStage s w u t)
    (hr : s.inReset = false) (hu : (s.accepted w).complete = .next u) (hh : t.host = []) :
    t.busy = false ∧ t.reads.head? = some u.statusWord ∧ ∀ r, t.readReg r = u.readReg r := by
  cases h with
  | ended hunit _ hread =>
    obtain ⟨hub, -⟩ := accepted_complete_idle hr hu
    exact ⟨hunit.busy.trans hub, hread, hunit.sameRegs.readReg⟩
  | toWrite _ hh' | inFlight _ hh' | toPoll _ hh' => simp [hh] at hh'

/-- Settles O30: every step keeps the stage or takes the next one, and the stage in which the host is
done is the one after the poll. -/
theorem pollReturnsAfterCompletion : Obligations.PollReturnsAfterCompletion := by
  intro s t w n hb hr hn hh hrun hdone
  obtain ⟨u, hu, -⟩ := (s.accepted w).complete_idle
  obtain ⟨t', ht', -, hst⟩ :=
    run_of_step (fun _ => PollStage.step hb hr hu) n s ⟨hn, .toWrite rfl hh⟩
  obtain rfl := Host.Outcome.next.inj (ht'.symm.trans hrun)
  exact ⟨u, hu, hst.results hr hu hdone⟩

end Sys2Proof.Machine
end

section
/-! ### The encoding: a word is its fields, its bytes and its command (30_encoding.md) -/

namespace Sys2Proof

/-! #### Words, fields and bytes (R62, R90) -/

/-- The three fields are the whole word: no bit of it is dropped. -/
theorem Fields.word_ofWord (w : Word) : (Fields.ofWord w).word = w := by
  simp only [Fields.word, Fields.ofWord]
  rw [BitVec.extractLsb'_append_extractLsb'_eq_extractLsb' (rfl : 9 = 8 + 1),
    BitVec.extractLsb'_append_extractLsb'_eq_extractLsb' (rfl : 8 = 0 + 8)]
  exact BitVec.extractLsb'_eq_self

theorem wordOfBytes_byteOfWord (w : Word) :
    wordOfBytes (byteOfWord w 0) (byteOfWord w 1) (byteOfWord w 2) (byteOfWord w 3) = w := by
  unfold wordOfBytes byteOfWord
  rw [BitVec.extractLsb'_append_extractLsb'_eq_extractLsb' (rfl : 8 * 3 = 8 * 2 + 8),
    BitVec.extractLsb'_append_extractLsb'_eq_extractLsb' (rfl : 8 * 2 = 8 * 1 + 8),
    BitVec.extractLsb'_append_extractLsb'_eq_extractLsb' (rfl : 8 * 1 = 8 * 0 + 8)]
  exact BitVec.extractLsb'_eq_self

theorem decodeBytes_bytesOfWord_append (w : Word) (rest : List Byte) :
    decodeBytes (bytesOfWord w ++ rest) = (decode w).map (fun i => (i, rest)) := by
  conv_rhs => rw [← wordOfBytes_byteOfWord w]
  rfl

theorem tableWord_toNat (w : Word) : tableWord 32 w.toNat = w := by
  rw [tableWord, Nat.mod_eq_of_lt w.isLt, BitVec.ofNat_toNat, BitVec.setWidth_eq]

theorem decodeTableWord_toNat (w : Word) : decodeTableWord 32 w.toNat = decode w := by
  rw [decodeTableWord, tableWord_toNat, ← List.append_nil (bytesOfWord w),
    decodeBytes_bytesOfWord_append, Option.map_map]
  exact Option.map_id'

/-! #### A legal word's fields are those of its command (R91, R92, R95) -/

/-- `S = 0` is side 1, `S = 1` is side 2 (R92). -/
theorem extractLsb'_side_bit (w : Word) :
    w.extractLsb' 8 1 = (Side.ofBit (w.getLsbD 8)).bit := by
  apply BitVec.eq_of_getLsbD_eq
  intro i hi
  obtain rfl : i = 0 := by omega
  cases h : w.getLsbD 8 <;> simpa [Side.ofBit, Side.bit] using h

theorem Fields.ofWord_eq {w : Word} {n : Nat} (hrsv : w.extractLsb' 9 23 = 0)
    (hop : (w.extractLsb' 0 8).toNat = n) :
    Fields.ofWord w = { op := BitVec.ofNat 8 n, s := (Side.ofBit (w.getLsbD 8)).bit, rsv := 0 } := by
  subst hop
  rw [Fields.ofWord, hrsv, extractLsb'_side_bit, BitVec.ofNat_toNat, BitVec.setWidth_eq]

/-- The branches of decoding (R95), gone through once: each answers the command of the word's fields. -/
theorem ofWord_of_decode {w : Word} {i : Instr} (h : decode w = some i) :
    Fields.ofWord w = i.fields := by
  simp only [decode] at h
  split at h
  · cases h
  next hrsv =>
  have hfields {n : Nat} := Fields.ofWord_eq (n := n) (not_not.1 hrsv)
  split at h
  case h_2 hop | h_3 hop | h_4 hop =>
    cases h
    exact hfields hop
  case h_9 => cases h
  all_goals
    next hop =>
    split at h
    · cases h
    next hs =>
    cases h
    rw [hfields hop, Bool.eq_false_iff.2 hs]
    rfl

theorem decode_encode (i : Instr) : decode (encode i) = some i := by
  cases i with
  | yuv2rgb side | rgb2lab side | cvt side => cases side <;> rfl
  | _ => rfl

/-- Settles O1: a word is put together from its fields, and decoding answers the command they are the
fields of. -/
theorem wordDecodesExactlyToItsCommand : Obligations.WordDecodesExactlyToItsCommand := by
  intro w i
  constructor
  · intro h
    rw [← Fields.word_ofWord w, ofWord_of_decode h, encode]
  · rintro rfl
    exact decode_encode i

/-! #### The 11 legal words (R95) -/

/-- Every command, in the order of the legal words. -/
def commands : List Instr :=
  [.nop, .yuv2rgb .one, .yuv2rgb .two, .rgb2lab .one, .rgb2lab .two, .cvt .one, .cvt .two, .de, .pixel,
   .pow24, .lin]

theorem mem_commands (i : Instr) : i ∈ commands := by
  cases i with
  | yuv2rgb side | rgb2lab side | cvt side => cases side <;> decide
  | _ => decide

theorem legalWords_eq_map_encode : legalWords = commands.map encode := by decide

/-- Settles O2: the legal words are the encodings of the 11 commands. -/
theorem legalWordsAreExactlyEleven : Obligations.LegalWordsAreExactlyEleven := by
  intro w
  rw [legalWords_eq_map_encode, Option.ne_none_iff_exists', List.mem_map]
  constructor
  · rintro ⟨i, hi⟩
    exact ⟨i, mem_commands i, ((wordDecodesExactlyToItsCommand w i).1 hi).symm⟩
  · rintro ⟨i, -, rfl⟩
    exact ⟨i, decode_encode i⟩

/-! #### The side and the reserved bits of a legal word (R92, R93) -/

theorem Instr.fields_rsv (i : Instr) : i.fields.rsv = 0 := by cases i <;> rfl

theorem Instr.fields_s_of_side {i : Instr} {side : Side} (h : i.side? = some side) :
    i.fields.s = side.bit := by
  cases i with
  | yuv2rgb other | rgb2lab other | cvt other =>
    cases h
    rfl
  | _ => cases h

theorem Instr.side?_eq_none_iff (i : Instr) : i.side? = none ↔ i.mnemonic.perSide = false := by
  cases i <;> simp [Instr.side?, Instr.mnemonic, Mnemonic.perSide]

theorem Instr.fields_s_of_not_perSide {i : Instr} (h : i.mnemonic.perSide = false) :
    i.fields.s = 0 := by
  cases i with
  | yuv2rgb side | rgb2lab side | cvt side => cases h
  | _ => rfl

theorem extractLsb'_side_of_decode {w : Word} {i : Instr} (h : decode w = some i) :
    w.extractLsb' 8 1 = i.fields.s := congrArg Fields.s (ofWord_of_decode h)

theorem getLsbD_eight_iff (w : Word) : w.getLsbD 8 = true ↔ w.extractLsb' 8 1 = 1 := by
  rw [extractLsb'_side_bit]
  cases w.getLsbD 8 <;> decide

/-- Settles O4: a legal word's reserved bits and side bit are those of its command's fields. -/
theorem sideAndReservedFields : Obligations.SideAndReservedFields := by
  refine ⟨fun w hrsv => ?_, fun w i side h hside => ?_, fun w i _ => i.side?_eq_none_iff,
    fun w i h hper => ?_⟩
  · refine Option.eq_none_iff_forall_ne_some.2 fun i h => hrsv ?_
    exact (congrArg Fields.rsv (ofWord_of_decode h)).trans i.fields_rsv
  · rw [extractLsb'_side_of_decode h, Instr.fields_s_of_side hside]
    cases side <;> rfl
  · rw [Bool.eq_false_iff, ne_eq, getLsbD_eight_iff, extractLsb'_side_of_decode h,
      Instr.fields_s_of_not_perSide hper]
    decide

/-! #### The pattern rows (R96) -/

/-- The mask of a row without a side keeps every bit, that of a per-side row all but bit 8. -/
theorem Mnemonic.mask_eq (m : Mnemonic) :
    m.mask = if m.perSide then ~~~BitVec.twoPow 32 8 else BitVec.allOnes 32 := by
  cases m <;> decide

/-- A word that agrees with a value in all bits but one is that value with the bit clear or set. -/
theorem eq_or_of_and_not_twoPow {n : Nat} {w v : BitVec n} {k : Nat}
    (h : w &&& ~~~BitVec.twoPow n k = v) : w = v ∨ w = v ||| BitVec.twoPow n k := by
  have hw : w = v ||| w &&& BitVec.twoPow n k := by
    rw [← h, ← BitVec.and_or_distrib_left, BitVec.or_comm, BitVec.or_not_self, BitVec.and_allOnes]
  rw [BitVec.and_twoPow] at hw
  split at hw
  · exact .inr hw
  · exact .inl (by simpa using hw)

/-- The command of a row and, where it has one, a side. -/
def Mnemonic.command (m : Mnemonic) (side : Side) : Instr :=
  match m with
  | .NOP     => .nop
  | .YUV2RGB => .yuv2rgb side
  | .RGB2LAB => .rgb2lab side
  | .CVT     => .cvt side
  | .DE      => .de
  | .PIXEL   => .pixel
  | .POW24   => .pow24
  | .LIN     => .lin

theorem Mnemonic.mnemonic_command (m : Mnemonic) (side : Side) :
    (m.command side).mnemonic = m := by cases m <;> rfl

theorem Mnemonic.encode_command_one (m : Mnemonic) : encode (m.command .one) = m.matchWord := by
  cases m <;> decide

theorem Mnemonic.encode_command_two {m : Mnemonic} (h : m.perSide = true) :
    encode (m.command .two) = m.matchWord ||| BitVec.twoPow 32 8 := by
  cases m with
  | YUV2RGB | RGB2LAB | CVT => decide
  | _ => cases h

theorem Mnemonic.exists_encode_of_matches {m : Mnemonic} {w : Word}
    (h : w &&& m.mask = m.matchWord) : ∃ side, w = encode (m.command side) := by
  rw [m.mask_eq] at h
  split at h
  next hper =>
    obtain hw | hw := eq_or_of_and_not_twoPow h
    · exact ⟨.one, hw.trans m.encode_command_one.symm⟩
    · exact ⟨.two, hw.trans (Mnemonic.encode_command_two hper).symm⟩
  next =>
    rw [BitVec.and_allOnes] at h
    exact ⟨.one, h.trans m.encode_command_one.symm⟩

theorem encode_matches (i : Instr) : encode i &&& i.mnemonic.mask = i.mnemonic.matchWord := by
  cases i with
  | yuv2rgb side | rgb2lab side | cvt side => cases side <;> decide
  | _ => decide

theorem decode_mnemonic_iff_matches (w : Word) (m : Mnemonic) :
    (∃ i, decode w = some i ∧ i.mnemonic = m) ↔ w &&& m.mask = m.matchWord := by
  constructor
  · rintro ⟨i, hi, rfl⟩
    rw [(wordDecodesExactlyToItsCommand w i).1 hi]
    exact encode_matches i
  · intro h
    obtain ⟨side, rfl⟩ := Mnemonic.exists_encode_of_matches h
    exact ⟨_, decode_encode _, m.mnemonic_command side⟩

/-- Settles O3: a row's words are the encodings of its commands, so two rows that share a word share its
command. -/
theorem patternRowsDecode : Obligations.PatternRowsDecode := by
  refine ⟨decode_mnemonic_iff_matches, fun w m m' hm hm' => ?_, fun w i side h hside => ?_⟩
  · obtain ⟨i, hi, rfl⟩ := (decode_mnemonic_iff_matches w m).2 hm
    obtain ⟨i', hi', rfl⟩ := (decode_mnemonic_iff_matches w m').2 hm'
    rw [Option.some.inj (hi.symm.trans hi')]
  · rw [getLsbD_eight_iff, extractLsb'_side_of_decode h, Instr.fields_s_of_side hside]
    cases side <;> decide

/-- Settles O6: the four bytes of a word, and its table row, decode as the word does. -/
theorem bytesDecodeToTheirCommand : Obligations.BytesDecodeToTheirCommand := by
  intro i rest
  constructor
  · rw [decodeBytes_bytesOfWord_append, decode_encode]
    rfl
  · rw [decodeTableWord_toNat, decode_encode]

end Sys2Proof
end

section
/-! ### What a completion changes: an illegal word STATUS only, a command its results too -/

namespace Sys2Proof.Machine

/-! #### Illegal words (R97, R101, R221) -/

/-- A failed command leaves the state that R224 and R225 tell, in numbers. -/
theorem State.fail_eq_withError (s : State) (e : CmdError) :
    s.fail e = s.withError e.code.code.toNat e.info.index := by
  simp only [State.fail, State.withError, Status.latch_eq, BitVec.ofNat_toNat, BitVec.setWidth_eq]

/-- Settles O21: the turn is the unit's, and the word in flight fails with the error of R221. -/
theorem illegalWordsEndInOpcodeError : Obligations.IllegalWordsEndInOpcodeError := by
  intro s ts hb ht hd
  have hmove : step s = { s with turns := ts }.complete :=
    (step_of_turn ht).trans (State.unitMove_busy (s := { s with turns := ts }) hb)
  rw [hmove, State.complete_of_illegal (s := { s with turns := ts }) hd, State.fail_eq_withError]
  rfl

/-- Settles O5: both words are illegal, and an empty latch takes the error. -/
theorem workedEncodings : Obligations.WorkedEncodings := by
  refine ⟨rfl, rfl, decode_encode (.cvt .two), decode_encode (.rgb2lab .one), fun s ts w hw => ?_⟩
  have hd : decode w = none := by rcases hw with rfl | rfl <;> decide
  refine ⟨hd, fun hb hp he ht => ⟨_, illegalWordsEndInOpcodeError s ts hb ht (hp ▸ hd), rfl, ?_, ?_⟩⟩
  · simp [State.withError, he]
  · simp [State.withError, he]

/-! #### The frame of a command (R94, R224) -/

/-- From `s` to `t` no register differs but STATUS and those listed, and OVR is the same. -/
structure State.WritesOnly (s : State) (rs : List Reg) (t : State) : Prop where
  readReg : ∀ r, r ≠ .status → r ∉ rs → t.readReg r = s.readReg r
  ovr     : t.status.ovr = s.status.ovr

theorem State.WritesOnly.refl (s : State) (rs : List Reg) : s.WritesOnly rs s :=
  ⟨fun _ _ _ => rfl, rfl⟩

/-- A completion's STATUS and `busy` show in STATUS only. -/
theorem State.readReg_withStatus_of_ne (s : State) (f : Status) (b : Bool) {r : Reg}
    (h : r ≠ .status) : ({ s with status := f, busy := b } : State).readReg r = s.readReg r := by
  cases r with
  | status => exact absurd rfl h
  | yuv side c | rgb side c | lab side c => cases side <;> rfl
  | _ => rfl

theorem rgb_mem_rgbRegs (side : Side) (c : Chan) : Reg.rgb side c ∈ rgbRegs side := by
  cases c <;> simp [rgbRegs]

theorem lab_mem_labRegs (side : Side) (c : Chan) : Reg.lab side c ∈ labRegs side := by
  cases c <;> simp [labRegs]

theorem State.readReg_setRgb {s : State} {side : Side} {r : Reg} (h : r ∉ rgbRegs side) (v : Rgb) :
    (s.setRgb side v).readReg r = s.readReg r :=
  State.readReg_setBank (fun _ _ => rfl) (fun c hc => absurd (hc ▸ rgb_mem_rgbRegs side c) h)
    (fun _ _ => rfl)

theorem State.readReg_setLab {s : State} {side : Side} {r : Reg} (h : r ∉ labRegs side) (v : Lab) :
    (s.setLab side v).readReg r = s.readReg r :=
  State.readReg_setBank (fun _ _ => rfl) (fun _ _ => rfl)
    (fun c hc => absurd (hc ▸ lab_mem_labRegs side c) h)

theorem State.readReg_setP {s : State} {r : Reg} (h : r ≠ .p) (w : Word) :
    (s.setP w).readReg r = s.readReg r := by
  cases r with
  | p => exact absurd rfl h
  | _ => simp [State.readReg, State.statusWord]

theorem State.readReg_setDe {s : State} {r : Reg} (h : r ≠ .de) (w : Word) :
    (s.setDe w).readReg r = s.readReg r := by
  cases r with
  | de => exact absurd rfl h
  | _ => simp [State.readReg, State.statusWord]

section Writes

variable {s t : State} {rs : List Reg} (h : s.WritesOnly rs t)

include h

theorem State.WritesOnly.setRgb {side : Side} (hsub : rgbRegs side ⊆ rs) (v : Rgb) :
    s.WritesOnly rs (t.setRgb side v) :=
  ⟨fun r hs hr => (State.readReg_setRgb (fun hm => hr (hsub hm)) v).trans (h.readReg r hs hr),
    by simp [h.ovr]⟩

theorem State.WritesOnly.setLab {side : Side} (hsub : labRegs side ⊆ rs) (v : Lab) :
    s.WritesOnly rs (t.setLab side v) :=
  ⟨fun r hs hr => (State.readReg_setLab (fun hm => hr (hsub hm)) v).trans (h.readReg r hs hr),
    by simp [h.ovr]⟩

theorem State.WritesOnly.setP (hmem : .p ∈ rs) (w : Word) : s.WritesOnly rs (t.setP w) :=
  ⟨fun r hs hr =>
    (State.readReg_setP (ne_of_mem_of_not_mem hmem hr).symm w).trans (h.readReg r hs hr), h.ovr⟩

theorem State.WritesOnly.setDe (hmem : .de ∈ rs) (w : Word) : s.WritesOnly rs (t.setDe w) :=
  ⟨fun r hs hr =>
    (State.readReg_setDe (ne_of_mem_of_not_mem hmem hr).symm w).trans (h.readReg r hs hr), h.ovr⟩

theorem State.WritesOnly.finish : s.WritesOnly rs t.finish :=
  ⟨fun r hs hr => (t.readReg_withStatus_of_ne _ _ hs).trans (h.readReg r hs hr), h.ovr⟩

end Writes

theorem State.WritesOnly.fail (s : State) (rs : List Reg) (e : CmdError) :
    s.WritesOnly rs (s.fail e) :=
  ⟨fun _ hs _ => s.readReg_withStatus_of_ne _ _ hs, by rw [State.fail_status, Status.latch_eq]⟩

theorem State.WritesOnly.settle {s r t : State} {rs : List Reg} {cs : List Check}
    (hr : s.WritesOnly rs r) (h : s.settle cs r = .next t) : s.WritesOnly rs t := by
  obtain ⟨-, rfl⟩ | ⟨c, -, -, rfl⟩ := State.settle_cases h
  · exact hr.finish
  · exact .fail s rs c.error

theorem State.writesOnly_setPixel (s : State) (rgb1 rgb2 : Rgb) (lab1 lab2 : Lab) (w : Word) :
    s.WritesOnly (writes .pixel) (s.setPixel rgb1 rgb2 lab1 lab2 w) :=
  (((((State.WritesOnly.refl s _).setRgb (by decide) _).setRgb (by decide) _).setLab
    (by decide) _).setLab (by decide) _).setDe (by decide) _

/-- A command that ends has written its results of R94 and STATUS only. -/
theorem exec_writesOnly {i : Instr} {s t : State} (h : exec i s = .next t) :
    s.WritesOnly (writes i) t := by
  have same := State.WritesOnly.refl s (writes i)
  cases i with
  | nop => exact same.settle (cs := []) h
  | rgb2lab side => exact (same.setLab (List.Subset.refl _) _).settle h
  | de => exact (same.setDe List.mem_cons_self _).settle h
  | pow24 => exact (same.setP List.mem_cons_self _).settle h
  | lin => exact (same.setP List.mem_cons_self _).settle h
  | yuv2rgb side =>
    simp only [exec, execYuv2rgb] at h
    split at h
    · cases h
      exact .fail s _ _
    · exact (same.setRgb (List.Subset.refl _) _).settle h
  | cvt side =>
    simp only [exec, execCvt] at h
    split at h
    · cases h
      exact .fail s _ _
    · refine State.WritesOnly.settle ?_ h
      exact (same.setRgb (List.subset_append_left _ _) _).setLab (List.subset_append_right _ _) _
  | pixel =>
    simp only [exec, execPixel] at h
    split at h
    · cases h
      exact .fail s _ _
    · exact (s.writesOnly_setPixel _ _ _ _ _).settle h

/-- A byte of the window is a byte of the register at its word index, or of none (R22, R62). -/
theorem State.byteAt_congr {s t : State} {a : Nat}
    (h : ∀ r, r.index = a / 4 → t.readReg r = s.readReg r) : t.byteAt a = s.byteAt a := by
  have hw : t.wordAt (a / 4) = s.wordAt (a / 4) := by
    unfold State.wordAt
    cases hi : Reg.ofIndex (a / 4) with
    | none => rfl
    | some r => exact h r (Reg.index_of_ofIndex hi)
  rw [State.byteAt, hw, State.byteAt]

theorem State.WritesOnly.byteAt {s t : State} {rs : List Reg} (h : s.WritesOnly rs t) {a : Nat}
    (hs : a / 4 ≠ Reg.status.index) (hr : ∀ r ∈ rs, a / 4 ≠ r.index) : t.byteAt a = s.byteAt a := by
  refine State.byteAt_congr fun r hi => h.readReg r ?_ fun hm => hr r hm hi.symm
  rintro rfl
  exact hs hi.symm

/-- Settles O19: the registers by the command's writes, the fields of the host and the platform by what
every completion leaves. -/
theorem commandsWriteOnlyTheirResults : Obligations.CommandsWriteOnlyTheirResults := by
  intro i s t h
  have hw := exec_writesOnly h
  obtain ⟨t', ht', -, same⟩ := exec_idle i s
  obtain rfl := Host.Outcome.next.inj (ht'.symm.trans h)
  exact ⟨fun a _ hs hr => hw.byteAt hs hr, hw.readReg, same.ie, hw.ovr, same.pending, same.inReset,
    same.host, same.turns, same.reads, same.freeReads⟩

end Sys2Proof.Machine
end

/-! ### The fast power on its domain (41_fast_power.md) -/

namespace Sys2Proof.Machine

theorem firstFailed_xCheck_eq_none {ok : Bool} (h : ok = true) : firstFailed (xCheck ok) = none :=
  firstFailed_cons_ok h []

/-- R116, R152: what a command that answers in `P` leaves when it succeeds. -/
theorem State.finish_setP (s : State) (w : Word) : (s.setP w).finish =
    { s with p := w, status := { s.status with done := true }, busy := false } := rfl

/-- R112's bucket is the top three bits of the fraction. -/
theorem powBucket_eq (x : Word) : powBucket x = BitVec.ofNat 3 (ffrac x / 2 ^ 20) := by
  rw [← toNat_powBucket, BitVec.ofNat_toNat, BitVec.setWidth_eq]

/-- R112's significand, put together from fields, is the positive pattern with exponent 0x7F. -/
theorem powMantissa_eq (x : Word) : powMantissa x = packSign false (0x7F * 2 ^ 23 + ffrac x) := by
  have hf := ffrac_lt x
  apply BitVec.eq_of_toNat_eq
  rw [toNat_powMantissa, packSign, if_neg Bool.false_ne_true, BitVec.toNat_ofNat]
  omega

/-- Settles O40: the one check is the domain of R115, and `pow24_fn` there is the product of R113. -/
theorem pow24Completes : Obligations.Pow24Completes := by
  intro s hsign hlo hhi m k r corr
  have hok : powOk s.x = true := by simp [powOk, hsign, hlo, hhi]
  have hr : powResidual s.x = r := by rw [powResidual, powMantissa_eq, powBucket_eq]; rfl
  have hp : pow24Fn s.x =
      fmul (fmul (epT (BitVec.ofNat 3 (fexp s.x - 123))) (mpT k)) corr := by
    rw [pow24Fn, if_pos hok, hr, powBucket_eq]
    rfl
  calc exec .pow24 s
    _ = .next (s.setP (pow24Fn s.x)).finish := State.settle_ok (firstFailed_xCheck_eq_none hok) _
    _ = _ := by rw [hp, State.finish_setP]

end Sys2Proof.Machine

section
/-! ### Rounding keeps order: an operation on intervals is bounded by its results at the ends -/

namespace Sys2Proof.Machine

/-! #### Keys and values -/

/-- The key of the pattern nearest `num / d` units. -/
def roundKey (num : Int) (d : Nat) : Int :=
  if num < 0 then -(roundUnits num.natAbs d : Int) else (roundUnits num.natAbs d : Int)

theorem roundKey_mono {m n : Int} {d : Nat} (hd : 0 < d) (h : m ≤ n) : roundKey m d ≤ roundKey n d := by
  have hmono : ∀ {k l : Nat}, k ≤ l → roundUnits k d ≤ roundUnits l d := fun hkl =>
    roundUnits_mono hd hd (Nat.mul_le_mul_right d hkl)
  unfold roundKey
  split
  case isTrue hm =>
    split
    case isTrue hn => have := hmono (k := n.natAbs) (l := m.natAbs) (by omega); omega
    case isFalse hn => omega
  case isFalse hm =>
    rw [if_neg (by omega)]
    exact_mod_cast hmono (by omega)

/-- A magnitude rounded with the sign of the exact value has the exact value's key. -/
theorem fkey_packSign_roundUnits {s : Bool} {n d : Nat} {num : Int}
    (h : num = if s then -(n : Int) else n) : fkey (packSign s (roundUnits n d)) = roundKey num d := by
  have hm := roundUnits_lt n d
  rw [fkey, fsign_packSign s hm, fmag_packSign s hm, roundKey, h]
  cases s
  · simp
  · rcases Nat.eq_zero_or_pos n with rfl | hn
    · simp
    · simp [hn]

/-- A finite value is its own rounding. -/
theorem fkey_eq_roundKey {w : Word} (h : isFinite w = true) : fkey w = roundKey (fvalue w) 1 := by
  have hround : roundUnits (magUnits (fmag w)) 1 = fmag w := by
    simpa using roundUnits_magUnits Nat.one_pos (fmag_le_infMag h)
  rw [← fkey_packSign_roundUnits (fvalue_eq w), hround, packSign_fsign_fmag]

theorem fkey_le_of_fvalue_le {a b : Word} (ha : isFinite a = true) (hb : isFinite b = true)
    (h : fvalue a ≤ fvalue b) : fkey a ≤ fkey b := by
  rw [fkey_eq_roundKey ha, fkey_eq_roundKey hb]
  exact roundKey_mono Nat.one_pos h

theorem fvalue_le_of_fkey_le {a b : Word} (ha : isFinite a = true) (hb : isFinite b = true)
    (h : fkey a ≤ fkey b) : fvalue a ≤ fvalue b := by
  have hmono : ∀ {v w : Word}, isFinite w = true → fmag v ≤ fmag w →
      magUnits (fmag v) ≤ magUnits (fmag w) := fun hw hvw => magUnits_mono hvw (fmag_le_infMag hw)
  have hzero : ∀ {w : Word}, fmag w = 0 → magUnits (fmag w) = 0 := fun hw => by rw [hw]; rfl
  rw [fvalue_eq, fvalue_eq]
  rw [fkey, fkey] at h
  cases hsa : fsign a <;> cases hsb : fsign b <;> simp only [hsa, hsb, if_true, if_false,
    Bool.false_eq_true] at h ⊢
  · exact_mod_cast hmono hb (by omega)
  · rw [hzero (by omega), hzero (by omega)]; rfl
  · omega
  · have := hmono (v := b) ha (by omega); omega

theorem fkey_le_of_val_le {a b : Word} (ha : isFinite a = true) (hb : isFinite b = true)
    (h : val a ≤ val b) : fkey a ≤ fkey b := by
  rw [val, val, div_le_div_iff_of_pos_right (by positivity)] at h
  exact fkey_le_of_fvalue_le ha hb (by exact_mod_cast h)

theorem isFinite_iff_fkey (w : Word) :
    isFinite w = true ↔ -(infMag : Int) < fkey w ∧ fkey w < infMag := by
  rw [isFinite, decide_eq_true_eq, fkey]
  split <;> omega

theorem fle_iff {a b : Word} (ha : isFinite a = true) (hb : isFinite b = true) :
    fle a b = true ↔ fkey a ≤ fkey b := by
  simp [fle, not_nan_of_finite ha, not_nan_of_finite hb]

theorem fkey_le_of_fle {a b : Word} (h : fle a b = true) : fkey a ≤ fkey b := by
  rw [fle, Bool.and_eq_true, decide_eq_true_eq] at h
  exact h.2

theorem flt_iff {a b : Word} (ha : isFinite a = true) (hb : isFinite b = true) :
    flt a b = true ↔ fkey a < fkey b := by
  simp [flt, not_nan_of_finite ha, not_nan_of_finite hb]

theorem fkey_fabs (w : Word) : fkey (fabs w) = |fkey w| := by
  rw [fkey, fsign_fabs, fmag_fabs, fkey]
  cases fsign w <;> simp

@[simp] theorem isFinite_fabs (w : Word) : isFinite (fabs w) = isFinite w := by simp [isFinite]

/-! #### The keys of the operations' results -/

theorem fkey_fadd {a b : Word} (ha : isFinite a = true) (hb : isFinite b = true) :
    fkey (fadd a b) = roundKey (fvalue a + fvalue b) 1 := by
  obtain ⟨s, n, hadd, hval⟩ := fadd_eq_packSign ha hb
  rw [hadd, fkey_packSign_roundUnits hval]

theorem fkey_fmul {a b : Word} (ha : isFinite a = true) (hb : isFinite b = true) :
    fkey (fmul a b) = roundKey (fvalue a * fvalue b) (2 ^ 149) := by
  rw [fmul_finite ha hb]
  refine fkey_packSign_roundUnits ?_
  cases hsa : fsign a <;> cases hsb : fsign b <;> simp [fvalue, hsa, hsb]

theorem fkey_fdiv {a d : Word} (ha : isFinite a = true) (hd : isFinite d = true)
    (hpos : 0 < fvalue d) : fkey (fdiv a d) = roundKey (fvalue a * 2 ^ 149) (funits d) := by
  have hs : fsign d = false := by
    by_contra h
    rw [fvalue, if_pos (by simpa using h)] at hpos
    omega
  rw [fdiv_finite ha hd (mt fvalue_eq_zero hpos.ne')]
  refine fkey_packSign_roundUnits ?_
  cases hsa : fsign a <;> simp [fvalue, hsa, hs]

theorem fkey_fofInt (i : Int) : fkey (fofInt i) = roundKey (i * 2 ^ 149) 1 := by
  refine fkey_packSign_roundUnits ?_
  simp only [decide_eq_true_eq]
  split <;> omega

/-! #### A finite result has finite operands -/

theorem isFinite_eq (w : Word) : isFinite w = (!isNaN w && !isInf w) := by
  rw [Bool.eq_iff_iff]
  simp only [isFinite, isNaN, isInf, Bool.and_eq_true, Bool.not_eq_true', decide_eq_true_eq,
    decide_eq_false_iff_not, beq_eq_false_iff_ne]
  omega

theorem not_finite_nanOf (op : Arith) (a b : Word) : isFinite (nanOf op a b) = false := by
  simp [isFinite_eq]

theorem not_finite_infinity (s : Bool) : isFinite (packSign s infMag) = false := by
  cases s <;> decide

theorem finite_of_fadd {a b : Word} (h : isFinite (fadd a b) = true) :
    isFinite a = true ∧ isFinite b = true := by
  rw [fadd, addAs] at h
  split at h
  case isTrue => simp [not_finite_nanOf] at h
  case isFalse hnan =>
    split at h
    case isTrue ha =>
      split at h
      · simp [not_finite_nanOf] at h
      · simp [isFinite_eq, ha] at h
    case isFalse ha =>
      split at h
      case isTrue hb => simp [isFinite_eq, hb] at h
      case isFalse hb => simpa [isFinite_eq, ha, hb] using hnan

theorem finite_of_fmul {a b : Word} (h : isFinite (fmul a b) = true) :
    isFinite a = true ∧ isFinite b = true := by
  rw [fmul] at h
  split at h
  case isTrue => simp [not_finite_nanOf] at h
  case isFalse hnan =>
    split at h
    case isTrue =>
      split at h
      · simp [not_finite_nanOf] at h
      · simp [not_finite_infinity] at h
    case isFalse hinf =>
      rw [Bool.or_eq_true, not_or] at hnan hinf
      simp [isFinite_eq, hnan, hinf]

/-! #### Intervals -/

/-- Between two finite patterns. -/
structure Within (lo hi w : Word) : Prop where
  finite_lo : isFinite lo = true
  finite_hi : isFinite hi = true
  lo_le     : fkey lo ≤ fkey w
  le_hi     : fkey w ≤ fkey hi

section Intervals

variable {lo hi lo' hi' v w : Word}

theorem Within.refl (h : isFinite w = true) : Within w w w := ⟨h, h, le_rfl, le_rfl⟩

theorem Within.finite (h : Within lo hi w) : isFinite w = true := by
  have hlo := (isFinite_iff_fkey lo).1 h.finite_lo
  have hhi := (isFinite_iff_fkey hi).1 h.finite_hi
  exact (isFinite_iff_fkey w).2 ⟨hlo.1.trans_le h.lo_le, h.le_hi.trans_lt hhi.2⟩

theorem Within.lo_fvalue_le (h : Within lo hi w) : fvalue lo ≤ fvalue w :=
  fvalue_le_of_fkey_le h.finite_lo h.finite h.lo_le

theorem Within.fvalue_le_hi (h : Within lo hi w) : fvalue w ≤ fvalue hi :=
  fvalue_le_of_fkey_le h.finite h.finite_hi h.le_hi

theorem Within.lo_le_val (h : Within lo hi w) : val lo ≤ val w := by
  rw [val, val, div_le_div_iff_of_pos_right (by positivity)]
  exact_mod_cast h.lo_fvalue_le

theorem Within.val_le_hi (h : Within lo hi w) : val w ≤ val hi := by
  rw [val, val, div_le_div_iff_of_pos_right (by positivity)]
  exact_mod_cast h.fvalue_le_hi

theorem Within.of_fle (hlo : isFinite lo = true) (hhi : isFinite hi = true) (h : fle lo w = true)
    (h' : fle w hi = true) : Within lo hi w :=
  ⟨hlo, hhi, fkey_le_of_fle h, fkey_le_of_fle h'⟩

theorem Within.fle_lo (h : Within lo hi w) : fle lo w = true := (fle_iff h.finite_lo h.finite).2 h.lo_le

theorem Within.fle_hi (h : Within lo hi w) : fle w hi = true := (fle_iff h.finite h.finite_hi).2 h.le_hi

theorem Within.widen (h : Within lo hi w) (hends : (isFinite lo' = true ∧ isFinite hi' = true) ∧
    fkey lo' ≤ fkey lo ∧ fkey hi ≤ fkey hi') : Within lo' hi' w :=
  ⟨hends.1.1, hends.1.2, hends.2.1.trans h.lo_le, h.le_hi.trans hends.2.2⟩

/-- Bounded in magnitude is between a bound and its negation. -/
theorem within_fneg_iff (hw : isFinite w = true) (hhi : isFinite hi = true) :
    Within (fneg hi) hi w ↔ fle (fabs w) hi = true := by
  rw [fle_iff (by simpa) hhi, fkey_fabs, abs_le, ← fkey_fneg]
  exact ⟨fun h => ⟨h.lo_le, h.le_hi⟩, fun h => ⟨by simpa, hhi, h.1, h.2⟩⟩

theorem Within.add (hv : Within lo hi v) (hw : Within lo' hi' w)
    (hfin : isFinite (fadd lo lo') = true ∧ isFinite (fadd hi hi') = true) :
    Within (fadd lo lo') (fadd hi hi') (fadd v w) := by
  refine ⟨hfin.1, hfin.2, ?_, ?_⟩
  · rw [fkey_fadd hv.finite_lo hw.finite_lo, fkey_fadd hv.finite hw.finite]
    exact roundKey_mono Nat.one_pos (add_le_add hv.lo_fvalue_le hw.lo_fvalue_le)
  · rw [fkey_fadd hv.finite hw.finite, fkey_fadd hv.finite_hi hw.finite_hi]
    exact roundKey_mono Nat.one_pos (add_le_add hv.fvalue_le_hi hw.fvalue_le_hi)

theorem Within.neg (h : Within lo hi w) : Within (fneg hi) (fneg lo) (fneg w) := by
  refine ⟨by simpa using h.finite_hi, by simpa using h.finite_lo, ?_, ?_⟩
  · simpa using h.le_hi
  · simpa using h.lo_le

theorem Within.sub (hv : Within lo hi v) (hw : Within lo' hi' w)
    (hfin : isFinite (fsub lo hi') = true ∧ isFinite (fsub hi lo') = true) :
    Within (fsub lo hi') (fsub hi lo') (fsub v w) := by
  rw [fsub_finite hv.finite_lo hw.finite_hi, fsub_finite hv.finite_hi hw.finite_lo] at hfin
  rw [fsub_finite hv.finite hw.finite, fsub_finite hv.finite_lo hw.finite_hi,
    fsub_finite hv.finite_hi hw.finite_lo]
  exact hv.add hw.neg hfin

/-- The end of `[lo, hi]` at which the product with `c` is least. -/
def mulEnd (c lo hi : Word) : Word := if fsign c then hi else lo

/-- A factor with sign 0 keeps the ends of an interval, one with sign 1 swaps them. -/
theorem Within.mul {c : Word} (h : Within lo hi w)
    (hfin : isFinite (fmul c (mulEnd c lo hi)) = true ∧ isFinite (fmul c (mulEnd c hi lo)) = true) :
    Within (fmul c (mulEnd c lo hi)) (fmul c (mulEnd c hi lo)) (fmul c w) := by
  have hc := (finite_of_fmul hfin.1).1
  have hmul : ∀ {x y : Word}, isFinite x = true → isFinite y = true →
      fvalue c * fvalue x ≤ fvalue c * fvalue y → fkey (fmul c x) ≤ fkey (fmul c y) := by
    intro x y hx hy hxy
    rw [fkey_fmul hc hx, fkey_fmul hc hy]
    exact roundKey_mono (by positivity) hxy
  unfold mulEnd at *
  cases hs : fsign c <;> simp only [hs, if_true, if_false, Bool.false_eq_true] at hfin ⊢
  · have h0 : 0 ≤ fvalue c := by simp [fvalue, hs]
    exact ⟨hfin.1, hfin.2, hmul h.finite_lo h.finite (mul_le_mul_of_nonneg_left h.lo_fvalue_le h0),
      hmul h.finite h.finite_hi (mul_le_mul_of_nonneg_left h.fvalue_le_hi h0)⟩
  · have h0 : fvalue c ≤ 0 := by simp [fvalue, hs]
    exact ⟨hfin.1, hfin.2, hmul h.finite_hi h.finite (mul_le_mul_of_nonpos_left h.fvalue_le_hi h0),
      hmul h.finite h.finite_lo (mul_le_mul_of_nonpos_left h.lo_fvalue_le h0)⟩

theorem Within.div {d : Word} (h : Within lo hi w) (hd : isFinite d = true ∧ 0 < fvalue d)
    (hfin : isFinite (fdiv lo d) = true ∧ isFinite (fdiv hi d) = true) :
    Within (fdiv lo d) (fdiv hi d) (fdiv w d) := by
  have hpos := funits_pos_of_fvalue hd.2.ne'
  refine ⟨hfin.1, hfin.2, ?_, ?_⟩
  · rw [fkey_fdiv h.finite_lo hd.1 hd.2, fkey_fdiv h.finite hd.1 hd.2]
    exact roundKey_mono hpos (mul_le_mul_of_nonneg_right h.lo_fvalue_le (by positivity))
  · rw [fkey_fdiv h.finite hd.1 hd.2, fkey_fdiv h.finite_hi hd.1 hd.2]
    exact roundKey_mono hpos (mul_le_mul_of_nonneg_right h.fvalue_le_hi (by positivity))

/-- A row of a matrix (R134, R139) is least and greatest at corners of the box of its three operands. -/
theorem Within.row {m : Row} {la ua lb ub lc uc a b c : Word} (ha : Within la ua a)
    (hb : Within lb ub b) (hc : Within lc uc c)
    (hfin : isFinite (rowTimes m (mulEnd m.c1 la ua) (mulEnd m.c2 lb ub) (mulEnd m.c3 lc uc)) = true ∧
      isFinite (rowTimes m (mulEnd m.c1 ua la) (mulEnd m.c2 ub lb) (mulEnd m.c3 uc lc)) = true) :
    Within (rowTimes m (mulEnd m.c1 la ua) (mulEnd m.c2 lb ub) (mulEnd m.c3 lc uc))
      (rowTimes m (mulEnd m.c1 ua la) (mulEnd m.c2 ub lb) (mulEnd m.c3 uc lc))
      (rowTimes m a b c) := by
  obtain ⟨hsumLo, hthirdLo⟩ := finite_of_fadd hfin.1
  obtain ⟨hsumHi, hthirdHi⟩ := finite_of_fadd hfin.2
  obtain ⟨hfirstLo, hsecondLo⟩ := finite_of_fadd hsumLo
  obtain ⟨hfirstHi, hsecondHi⟩ := finite_of_fadd hsumHi
  exact ((ha.mul ⟨hfirstLo, hfirstHi⟩).add (hb.mul ⟨hsecondLo, hsecondHi⟩) ⟨hsumLo, hsumHi⟩).add
    (hc.mul ⟨hthirdLo, hthirdHi⟩) hfin

theorem Within.ofInt {i j k : Int} (hi : i ≤ k) (hj : k ≤ j)
    (hfin : isFinite (fofInt i) = true ∧ isFinite (fofInt j) = true) :
    Within (fofInt i) (fofInt j) (fofInt k) := by
  refine ⟨hfin.1, hfin.2, ?_, ?_⟩ <;> rw [fkey_fofInt, fkey_fofInt] <;>
    exact roundKey_mono Nat.one_pos (by omega)

end Intervals

end Sys2Proof.Machine
end

section
/-! ### Step 1: Sample → RGB (42_color_convert.md section 1) -/

namespace Sys2Proof.Machine

/-! #### The range of the channels (R135): the map is affine, so its extremes are at the corners -/

/-- The greatest sample of a bit depth (R34). -/
def sampleMax (depth : Nat) : BitVec 16 := BitVec.ofNat 16 (2 ^ depth - 1)

/-- A normalised component grows with its sample. -/
theorem normalise_mono {sample lo hi : BitVec 16} {off exc sc : Nat}
    (hlo : lo.toNat ≤ sample.toNat) (hhi : sample.toNat ≤ hi.toNat)
    (hends : isFinite (fofInt ((lo.toNat : Int) - (off * sc : Nat))) = true ∧
      isFinite (fofInt ((hi.toNat : Int) - (off * sc : Nat))) = true)
    (hexc : isFinite (fofInt ((exc * sc : Nat) : Int)) = true ∧
      0 < fvalue (fofInt ((exc * sc : Nat) : Int)))
    (hfin : isFinite (normalise lo off exc sc) = true ∧ isFinite (normalise hi off exc sc) = true) :
    Within (normalise lo off exc sc) (normalise hi off exc sc) (normalise sample off exc sc) :=
  (Within.ofInt (by omega) (by omega) hends).div hexc hfin

/-- At every bit depth a component of a legal sample is between those of the least and of the greatest
one. -/
theorem normalise_within {depth off exc : Nat} {sample : BitVec 16} (hd : depth ∈ [8, 10, 12])
    (hc : (off, exc) ∈ [(16, 219), (128, 224)]) (h : sample.toNat ≤ 2 ^ depth - 1) :
    Within (normalise 0 off exc (2 ^ (depth - 8)))
      (normalise (sampleMax depth) off exc (2 ^ (depth - 8)))
      (normalise sample off exc (2 ^ (depth - 8))) := by
  have hmax : ∀ d ∈ [8, 10, 12], 2 ^ d - 1 ≤ (sampleMax d).toNat := by decide
  have hends : ∀ d ∈ [8, 10, 12], ∀ c ∈ [(16, 219), (128, 224)],
      (isFinite (fofInt (((0 : BitVec 16).toNat : Int) - (c.1 * 2 ^ (d - 8) : Nat))) = true ∧
        isFinite (fofInt (((sampleMax d).toNat : Int) - (c.1 * 2 ^ (d - 8) : Nat))) = true) ∧
      (isFinite (fofInt ((c.2 * 2 ^ (d - 8) : Nat) : Int)) = true ∧
        0 < fvalue (fofInt ((c.2 * 2 ^ (d - 8) : Nat) : Int))) ∧
      isFinite (normalise 0 c.1 c.2 (2 ^ (d - 8))) = true ∧
        isFinite (normalise (sampleMax d) c.1 c.2 (2 ^ (d - 8))) = true := by
    decide +kernel
  obtain ⟨hint, hexc, hfin⟩ := hends depth hd _ hc
  exact normalise_mono (Nat.zero_le _) (h.trans (hmax depth hd)) hint hexc hfin

/-- The least normalised luma, the same at every bit depth. -/
def lumaMin : Word := normalise 0 16 219 1

/-- The greatest normalised luma, that of 12 bits. -/
def lumaMax : Word := normalise (sampleMax 12) 16 219 16

/-- The least normalised chroma, the same at every bit depth. -/
def chromaMin : Word := normalise 0 128 224 1

/-- The greatest normalised chroma, that of 12 bits. -/
def chromaMax : Word := normalise (sampleMax 12) 128 224 16

theorem luma_within {depth : Nat} {y : BitVec 16} (hd : depth ∈ [8, 10, 12])
    (h : y.toNat ≤ 2 ^ depth - 1) :
    Within lumaMin lumaMax (normalise y 16 219 (2 ^ (depth - 8))) := by
  have hends : ∀ d ∈ [8, 10, 12], (isFinite lumaMin = true ∧ isFinite lumaMax = true) ∧
      fkey lumaMin ≤ fkey (normalise 0 16 219 (2 ^ (d - 8))) ∧
      fkey (normalise (sampleMax d) 16 219 (2 ^ (d - 8))) ≤ fkey lumaMax := by
    decide +kernel
  exact (normalise_within hd (by decide) h).widen (hends depth hd)

theorem chroma_within {depth : Nat} {c : BitVec 16} (hd : depth ∈ [8, 10, 12])
    (h : c.toNat ≤ 2 ^ depth - 1) :
    Within chromaMin chromaMax (normalise c 128 224 (2 ^ (depth - 8))) := by
  have hends : ∀ d ∈ [8, 10, 12], (isFinite chromaMin = true ∧ isFinite chromaMax = true) ∧
      fkey chromaMin ≤ fkey (normalise 0 128 224 (2 ^ (d - 8))) ∧
      fkey (normalise (sampleMax d) 128 224 (2 ^ (d - 8))) ≤ fkey chromaMax := by
    decide +kernel
  exact (normalise_within hd (by decide) h).widen (hends depth hd)

/-- The range of a channel (R135). -/
def InChannelRange (v : Word) : Prop := Within 0xBF911687 0x4009F3B6 v

/-- The corner of the component box at which a row of `M_YUV` is least. -/
def leastChannel (m : Row) : Word :=
  rowTimes m (mulEnd m.c1 lumaMin lumaMax) (mulEnd m.c2 chromaMin chromaMax)
    (mulEnd m.c3 chromaMin chromaMax)

/-- The corner of the component box at which a row of `M_YUV` is greatest. -/
def greatestChannel (m : Row) : Word :=
  rowTimes m (mulEnd m.c1 lumaMax lumaMin) (mulEnd m.c2 chromaMax chromaMin)
    (mulEnd m.c3 chromaMax chromaMin)

theorem channel_inChannelRange {m : Row} {yn un vn : Word}
    (hm : m ∈ [mYuvCdu.r1, mYuvCdu.r2, mYuvCdu.r3]) (hy : Within lumaMin lumaMax yn)
    (hu : Within chromaMin chromaMax un) (hv : Within chromaMin chromaMax vn) :
    InChannelRange (rowTimes m yn un vn) := by
  have hcorners : ∀ m ∈ [mYuvCdu.r1, mYuvCdu.r2, mYuvCdu.r3],
      (isFinite (leastChannel m) = true ∧ isFinite (greatestChannel m) = true) ∧
      (isFinite 0xBF911687 = true ∧ isFinite 0x4009F3B6 = true) ∧
      fkey 0xBF911687 ≤ fkey (leastChannel m) ∧ fkey (greatestChannel m) ≤ fkey 0x4009F3B6 := by
    decide +kernel
  obtain ⟨hfin, hends⟩ := hcorners m hm
  exact (hy.row hu hv hfin).widen hends

theorem yuv2rgbFn_inChannelRange {t : Yuv} {depth : Nat} (hd : depth ∈ [8, 10, 12]) (ht : t.Ok depth) :
    ∀ v ∈ [(yuv2rgbFn cdu depth t).r, (yuv2rgbFn cdu depth t).g, (yuv2rgbFn cdu depth t).b],
      InChannelRange v := by
  have hy := luma_within hd (ht t.y (by simp))
  have hu := chroma_within hd (ht t.u (by simp))
  have hv := chroma_within hd (ht t.v (by simp))
  simp only [List.forall_mem_cons, List.not_mem_nil, false_implies, implies_true, and_true]
  exact ⟨channel_inChannelRange (.head _) hy hu hv, channel_inChannelRange (.tail _ (.head _)) hy hu hv,
    channel_inChannelRange (.tail _ (.tail _ (.head _))) hy hu hv⟩

/-- Settles O49: rounding keeps order, so the channels are bounded by those at the corners of the sample
cube. -/
theorem legalSamplesGiveBoundedRgb : Obligations.LegalSamplesGiveBoundedRgb := by
  intro t depth hd ht v hv
  have h := yuv2rgbFn_inChannelRange hd ht v hv
  exact ⟨h.finite, h.fle_lo, h.fle_hi⟩

end Sys2Proof.Machine
end

section
/-! ### Step 1 is exact up to its division, and a neutral chroma drops out -/

namespace Sys2Proof.Machine

/-! #### Integers as binary32 values (R132) -/

/-- A natural number below 2^24 is the value of a pattern. -/
theorem exists_magUnits_eq {k : Nat} (h : k < 2 ^ 24) : ∃ m ≤ infMag, magUnits m = k * 2 ^ 149 := by
  rcases Nat.eq_zero_or_pos k with rfl | hk
  · exact ⟨0, Nat.zero_le _, by decide⟩
  have hl : Nat.log2 k < 24 := (Nat.log2_lt hk.ne').2 h
  have hlo : 2 ^ 23 ≤ k * 2 ^ (23 - Nat.log2 k) :=
    calc 2 ^ 23 = 2 ^ Nat.log2 k * 2 ^ (23 - Nat.log2 k) := by rw [← pow_add]; congr 1; omega
      _ ≤ k * 2 ^ (23 - Nat.log2 k) := Nat.mul_le_mul_right _ (Nat.log2_self_le hk.ne')
  have hhi : k * 2 ^ (23 - Nat.log2 k) ≤ 2 ^ 24 :=
    calc k * 2 ^ (23 - Nat.log2 k) ≤ 2 ^ (Nat.log2 k + 1) * 2 ^ (23 - Nat.log2 k) :=
          Nat.mul_le_mul_right _ Nat.lt_log2_self.le
      _ = 2 ^ 24 := by rw [← pow_add]; congr 1; omega
  refine ⟨(126 + Nat.log2 k) * 2 ^ 23 + k * 2 ^ (23 - Nat.log2 k), by rw [infMag]; omega, ?_⟩
  rw [magUnits_block (.inr hlo) hhi, Nat.mul_assoc, ← pow_add]
  congr 2
  omega

/-- `f32_of_int` is exact below 2^24. -/
theorem funits_fofInt {i : Int} (h : i.natAbs < 2 ^ 24) : funits (fofInt i) = i.natAbs * 2 ^ 149 := by
  obtain ⟨m, hm, hunits⟩ := exists_magUnits_eq h
  have hround : roundUnits (i.natAbs * 2 ^ 149) 1 = m := by
    simpa [hunits] using roundUnits_magUnits Nat.one_pos hm
  rw [funits_eq, fofInt, fmag_packSign _ (roundUnits_lt _ _), hround, hunits]

theorem isFinite_fofInt {i : Int} (h : i.natAbs < 2 ^ 24) : isFinite (fofInt i) = true := by
  refine (isFinite_packSign _ (roundUnits_lt _ _)).2 (roundUnits_lt_infMag Nat.one_pos ?_)
  omega

theorem fsign_fofInt (i : Int) : fsign (fofInt i) = decide (i < 0) :=
  fsign_packSign _ (roundUnits_lt _ _)

/-- Rounding depends on the quotient only. -/
theorem roundUnits_mul_mul {n d k : Nat} (hk : 0 < k) (hd : 0 < d) :
    roundUnits (n * k) (d * k) = roundUnits n d := by
  have hdk := Nat.mul_pos hd hk
  exact Nat.le_antisymm (roundUnits_mono hdk hd (by rw [Nat.mul_assoc, Nat.mul_comm k d]))
    (roundUnits_mono hd hdk (by rw [Nat.mul_assoc, Nat.mul_comm k d]))

/-- A quotient of integers is their exact quotient, rounded once. -/
theorem fdiv_fofInt {i : Int} {n : Nat} (hi : i.natAbs < 2 ^ 24) (hn : n < 2 ^ 24) (h0 : 0 < n) :
    fdiv (fofInt i) (fofInt n) = packSign (decide (i < 0)) (roundUnits (i.natAbs * 2 ^ 149) n) := by
  have hunits : funits (fofInt n) = n * 2 ^ 149 := funits_fofInt hn
  have hmag : fmag (fofInt n) ≠ 0 := by
    intro h
    have := funits_eq_zero h
    omega
  rw [fdiv_finite (isFinite_fofInt hi) (isFinite_fofInt (i := n) hn) hmag, hunits, funits_fofInt hi,
    fsign_fofInt, fsign_fofInt, roundUnits_mul_mul (by positivity) h0,
    decide_eq_false (Int.natCast_nonneg n).not_gt, Bool.bne_false]

/-! #### The bit depth (R151) -/

/-- Scaling a sample with its offset and its excursion changes no bit of the component. -/
theorem normalise_scaled {sample scaled : BitVec 16} {off exc k : Nat} (hk : 0 < k)
    (hs : scaled.toNat = k * sample.toNat) (he : 0 < exc) (hoff : off * k < 2 ^ 23)
    (hexc : exc * k < 2 ^ 24) : normalise scaled off exc k = normalise sample off exc 1 := by
  have hle : off ≤ off * k ∧ exc ≤ exc * k :=
    ⟨Nat.le_mul_of_pos_right _ hk, Nat.le_mul_of_pos_right _ hk⟩
  have hlt := scaled.isLt
  have hlt' := sample.isLt
  have hi : (scaled.toNat : Int) - (off * k : Nat) = (sample.toNat - off : Int) * k := by
    rw [hs]; push_cast; ring
  have hsign : (sample.toNat - off : Int) * k < 0 ↔ (sample.toNat - off : Int) < 0 :=
    lt_iff_lt_of_le_iff_le (mul_nonneg_iff_of_pos_right (by positivity))
  rw [normalise, normalise, Nat.mul_one, Nat.mul_one, fdiv_fofInt (by omega) hexc (by positivity),
    fdiv_fofInt (by omega) (by omega) he, hi, Int.natAbs_mul, Int.natAbs_natCast,
    Nat.mul_right_comm, roundUnits_mul_mul hk he]
  simp only [hsign]

theorem yuv2rgbFn_scaled (c : Params) {t t' : Yuv} {depth : Nat} (hd : 2 ^ (depth - 8) ≤ 16)
    (hy : t'.y.toNat = 2 ^ (depth - 8) * t.y.toNat) (hu : t'.u.toNat = 2 ^ (depth - 8) * t.u.toNat)
    (hv : t'.v.toNat = 2 ^ (depth - 8) * t.v.toNat) : yuv2rgbFn c depth t' = yuv2rgbFn c 8 t := by
  have hk : 0 < 2 ^ (depth - 8) := by positivity
  have hyn := normalise_scaled (off := 16) (exc := 219) hk hy (by decide) (by omega) (by omega)
  have hun := normalise_scaled (off := 128) (exc := 224) hk hu (by decide) (by omega) (by omega)
  have hvn := normalise_scaled (off := 128) (exc := 224) hk hv (by decide) (by omega) (by omega)
  simp only [yuv2rgbFn, hyn, hun, hvn, Nat.sub_self, pow_zero]

/-- Settles O50: a component is a quotient of integers, rounded once, and the scale cancels. -/
theorem bitDepthOnlyScales : Obligations.BitDepthOnlyScales := by
  intro c t ht
  have hscale : ∀ s ∈ [t.y, t.u, t.v],
      (s * 4).toNat = 4 * s.toNat ∧ (s * 16).toNat = 16 * s.toNat := by
    intro s hs
    have hle := ht s hs
    rw [BitVec.toNat_mul, BitVec.toNat_mul, show (4 : BitVec 16).toNat = 4 from rfl,
      show (16 : BitVec 16).toNat = 16 from rfl]
    omega
  obtain ⟨hy4, hy16⟩ := hscale t.y (by simp)
  obtain ⟨hu4, hu16⟩ := hscale t.u (by simp)
  obtain ⟨hv4, hv16⟩ := hscale t.v (by simp)
  exact ⟨yuv2rgbFn_scaled c (by decide) hy4 hu4 hv4, yuv2rgbFn_scaled c (by decide) hy16 hu16 hv16⟩

/-! #### Neutral chroma (R134) -/

theorem fmul_cOne {a : Word} (ha : isFinite a = true) : fmul cOne a = a := by
  have hone : isFinite cOne = true ∧ fsign cOne = false ∧ funits cOne = 2 ^ 149 := by decide +kernel
  rw [fmul_finite hone.1 ha, hone.2.1, hone.2.2, Nat.mul_comm, funits_eq,
    roundUnits_magUnits (by positivity) (fmag_le_infMag ha), Bool.false_bne, packSign_fsign_fmag]

theorem fmag_fmul_zero {c z : Word} (hc : isFinite c = true) (hz : fmag z = 0) :
    isFinite (fmul c z) = true ∧ fmag (fmul c z) = 0 := by
  have hfin : isFinite z = true := by simp [isFinite, hz, infMag]
  have hmul : fmul c z = packSign (fsign c != fsign z) 0 := by
    rw [fmul_finite hc hfin, funits_eq_zero hz, Nat.mul_zero, roundUnits_zero]
  rw [hmul]
  exact ⟨(isFinite_packSign _ (by decide)).2 (by decide), fmag_packSign _ (by decide)⟩

/-- Adding a zero of either sign changes no value but -0. -/
theorem fadd_zero {a z : Word} (ha : isFinite a = true) (hz : fmag z = 0)
    (hneg : fsign a = true → fmag a ≠ 0) : fadd a z = a := by
  have hfin : isFinite z = true := by simp [isFinite, hz, infMag]
  rw [fadd_finite ha hfin, fvalue_eq_zero hz, add_zero]
  by_cases h0 : fmag a = 0
  · have hs : fsign a = false := by
      by_contra hs
      exact hneg (by simpa using hs) h0
    rw [if_pos (fvalue_eq_zero h0), hs, Bool.false_and]
    exact eq_of_sign_of_mag (by rw [hs]; rfl) (by rw [h0]; rfl)
  · have hpos := funits_pos h0 ha
    have hround : roundUnits (funits a) 1 = fmag a := by
      simpa [← funits_eq] using roundUnits_magUnits Nat.one_pos (fmag_le_infMag ha)
    have hval : fvalue a ≠ 0 ∧ (fvalue a).natAbs = funits a ∧ decide (fvalue a < 0) = fsign a := by
      rw [fvalue]
      cases fsign a <;> simp <;> omega
    rw [if_neg hval.1, hval.2.1, hval.2.2, hround, packSign_fsign_fmag]

/-- A row whose first entry is 1 gives its first operand when the other two are zeros. -/
theorem rowTimes_zeros {m : Row} {a z z' : Word} (h1 : m.c1 = cOne)
    (hm : isFinite m.c2 = true ∧ isFinite m.c3 = true) (ha : isFinite a = true)
    (hneg : fsign a = true → fmag a ≠ 0) (hz : fmag z = 0) (hz' : fmag z' = 0) :
    rowTimes m a z z' = a := by
  rw [rowTimes, h1, fmul_cOne ha, fadd_zero ha (fmag_fmul_zero hm.1 hz).2 hneg,
    fadd_zero ha (fmag_fmul_zero hm.2 hz').2 hneg]

/-- No sample normalises to -0. -/
theorem fmag_normalise_ne_zero {sample : BitVec 16} {off exc sc : Nat} (hoff : off * sc < 2 ^ 23)
    (hexc : exc * sc < 2 ^ 24) (h0 : 0 < exc * sc) (hs : fsign (normalise sample off exc sc) = true) :
    fmag (normalise sample off exc sc) ≠ 0 := by
  have hlt := sample.isLt
  have hround := roundUnits_lt (((sample.toNat : Int) - (off * sc : Nat)).natAbs * 2 ^ 149) (exc * sc)
  rw [normalise, fdiv_fofInt (by omega) hexc h0] at hs ⊢
  rw [fsign_packSign _ hround, decide_eq_true_eq] at hs
  rw [fmag_packSign _ hround]
  have hunit : magUnits 1 * (exc * sc) ≤
      ((sample.toNat : Int) - (off * sc : Nat)).natAbs * 2 ^ 149 := by
    rw [show magUnits 1 = 1 by decide]
    omega
  exact Nat.one_le_iff_ne_zero.1 (le_roundUnits_of_le h0 (by decide) hunit)

/-- Settles O51: at its centre chroma is a zero, whose products are zeros, and `1.0 * yn` is `yn`. -/
theorem neutralChromaGivesEqualChannels : Obligations.NeutralChromaGivesEqualChannels := by
  intro t depth hd ht hu hv yn
  have hcentre : ∀ d ∈ [8, 10, 12],
      fmag (normalise (BitVec.ofNat 16 (128 * 2 ^ (d - 8))) 128 224 (2 ^ (d - 8))) = 0 := by
    decide +kernel
  have hun := hu ▸ hcentre depth hd
  have hvn := hv ▸ hcentre depth hd
  have hyn : isFinite yn = true := (luma_within hd (ht t.y (by simp))).finite
  have hsc : ∀ d ∈ [8, 10, 12], 16 * 2 ^ (d - 8) < 2 ^ 23 ∧ 219 * 2 ^ (d - 8) < 2 ^ 24 := by decide
  have hneg : fsign yn = true → fmag yn ≠ 0 :=
    fmag_normalise_ne_zero (hsc depth hd).1 (hsc depth hd).2 (by positivity)
  have hentries : (isFinite mYuvCdu.r1.c2 = true ∧ isFinite mYuvCdu.r1.c3 = true) ∧
      (isFinite mYuvCdu.r2.c2 = true ∧ isFinite mYuvCdu.r2.c3 = true) ∧
      isFinite mYuvCdu.r3.c2 = true ∧ isFinite mYuvCdu.r3.c3 = true := by
    decide
  have hr := rowTimes_zeros (m := cdu.mYuv.r1) rfl hentries.1 hyn hneg hun hvn
  have hg := rowTimes_zeros (m := cdu.mYuv.r2) rfl hentries.2.1 hyn hneg hun hvn
  have hb := rowTimes_zeros (m := cdu.mYuv.r3) rfl hentries.2.2 hyn hneg hun hvn
  rw [yuv2rgbFn, hr, hg, hb]

end Sys2Proof.Machine
end

section
/-! ### Step 2: RGB → CIELAB (42_color_convert.md section 2) -/

namespace Sys2Proof.Machine

/-! #### The gamma decode (R137, R141) -/

/-- The least pre-scaled channel of the power branch, that of the first value above the threshold. -/
def prescaledMin : Word := 0x3DB6E501

/-- The greatest pre-scaled channel, that of 16: 15.218. -/
def prescaledMax : Word := 0x41737CF9

/-- The least decoded channel, -16/12.92. -/
def linMin : Word := 0xBF9E8391

/-- 700, above the greatest decoded channel (R141: 688.112). -/
def linMax : Word := 0x442F0000

/-- Above the threshold the pre-scaled channel lies between those of the next value up and of the limit. -/
theorem prescaled_within {v : Word} (hv : isFinite v = true) (hlim : fle (fabs v) rgbLimit = true)
    (hthr : flt cGammaThr v = true) :
    Within prescaledMin prescaledMax (fdiv (fadd v cGammaA) cGammaD) := by
  have hnext : fkey 0x3D20A0A2 = fkey cGammaThr + 1 := by decide
  have hlt := (flt_iff (by decide) hv).1 hthr
  have hrange : Within 0x3D20A0A2 rgbLimit v :=
    ⟨by decide, by decide, by omega, ((within_fneg_iff hv (by decide)).2 hlim).le_hi⟩
  have hA : Within cGammaA cGammaA cGammaA := .refl (by decide)
  exact ((hrange.add hA (by decide +kernel)).div (by decide +kernel) (by decide +kernel)).widen
    (by decide +kernel)

/-- The POW24 domain is an interval of patterns (R115). -/
theorem powOk_of_within {x : Word} (h : Within 0x3D800000 0x417FFFFF x) : powOk x = true := by
  have hlo := h.lo_le
  have hhi := h.le_hi
  have hends : fkey 0x3D800000 = 123 * 2 ^ 23 ∧ fkey 0x417FFFFF = 131 * 2 ^ 23 - 1 := by decide
  rw [hends.1, fkey] at hlo
  rw [hends.2, fkey] at hhi
  cases hs : fsign x <;> simp only [hs, if_true, if_false, Bool.false_eq_true] at hlo hhi
  · simp only [powOk, hs, fexp_eq, Bool.not_false, Bool.true_and, Bool.and_eq_true, decide_eq_true_eq]
    omega
  · omega

/-- Settles O48: the pre-scale keeps order, and its ends are in the domain. -/
theorem gammaStaysInThePowerDomain : Obligations.GammaStaysInThePowerDomain :=
  fun _ hv hlim hthr => powOk_of_within ((prescaled_within hv hlim hthr).widen (by decide))

/-- The power of the greatest pre-scaled channel, 15.218, is below 700: the power is within a part in
10^4 of `x^2.4`, in fifth powers. -/
theorem pow24Fn_within {x : Word} (h : Within prescaledMin prescaledMax x) :
    Within cZero linMax (pow24Fn x) := by
  have hok := powOk_of_within (h.widen (by decide))
  obtain ⟨hfin, hpos, -⟩ := pow24Fn_between_factors hok
  have hends : isFinite cZero = true ∧ isFinite linMax = true ∧ val cZero = 0 ∧
      val linMax = 700 ∧ 0 ≤ val prescaledMin ∧ val prescaledMax ≤ 1522 / 100 := by decide +kernel
  obtain ⟨hzero, hmax, hval0, hval700, hmin, hx⟩ := hends
  have hx0 : 0 ≤ val x := hmin.trans h.lo_le_val
  have hpow : val x ^ 12 ≤ (1522 / 100) ^ 12 := pow_le_pow_left₀ hx0 (h.val_le_hi.trans hx) 12
  have hfifth : val (pow24Fn x) ^ 5 ≤ 700 ^ 5 :=
    calc val (pow24Fn x) ^ 5 ≤ (10001 / 10000) ^ 5 * val x ^ 12 := (pow24Fn_pow_between hok).2.le
      _ ≤ (10001 / 10000) ^ 5 * (1522 / 100) ^ 12 := by gcongr
      _ ≤ 700 ^ 5 := by norm_num
  have hle : val (pow24Fn x) ≤ 700 := le_of_pow_le_pow_left₀ (by decide) (by norm_num) hfifth
  exact ⟨hzero, hmax, fkey_le_of_val_le hzero hfin (hval0 ▸ hpos.le),
    fkey_le_of_val_le hfin hmax (hval700 ▸ hle)⟩

/-- The gamma decode of a channel in range (R141): at least -1.2384, at most 700. -/
theorem linFn_within {v : Word} (hv : isFinite v = true) (hlim : fle (fabs v) rgbLimit = true) :
    Within linMin linMax (linFn v) := by
  rw [linFn]
  split
  case isTrue hthr => exact (pow24Fn_within (prescaled_within hv hlim hthr)).widen (by decide)
  case isFalse hthr =>
    rw [flt_iff (by decide) hv, not_lt] at hthr
    have hrange : Within (fneg rgbLimit) cGammaThr v :=
      ⟨by decide, by decide, ((within_fneg_iff hv (by decide)).2 hlim).lo_le, hthr⟩
    exact (hrange.div (by decide +kernel) (by decide +kernel)).widen (by decide +kernel)

/-! #### The CIE nonlinearity and the coordinates (R140, R142, R144) -/

/-- -1.3, below the least white-normalised component of channels in range. -/
def xyzMin : Word := 0xBFA66666

/-- -10, below the least value of the linear ramp (R144: -9.5055). -/
def fLabMin : Word := 0xC1200000

/-- The greatest coordinate inside `LAB_LIMIT`, which is exclusive (R37). -/
def labMax : Word := 0x467FFFFF

theorem fLab_within {n : Numerics} (hn : CbrtBounded n) {t : Word} (h : Within xyzMin c1024 t) :
    Within fLabMin cSixteen (fLab (cduWith n) t) := by
  have heps : isFinite cEps = true := by decide
  rw [fLab]
  split
  case isTrue hroot =>
    have hlt := (flt_iff heps h.finite).1 hroot
    have hzero : flt cZero t = true := (flt_iff (by decide) h.finite).2 (lt_trans (by decide) hlt)
    obtain ⟨hlo, hhi⟩ := hn t h.finite hzero h.fle_hi
    exact (Within.of_fle (by decide) (by decide) hlo hhi).widen (by decide)
  case isFalse hramp =>
    rw [flt_iff heps h.finite, not_lt] at hramp
    have hrange : Within xyzMin cEps t := ⟨by decide, heps, h.lo_le, hramp⟩
    have h16 : Within cSixteen cSixteen cSixteen := .refl (by decide)
    exact (((hrange.mul (by decide +kernel)).add h16 (by decide +kernel)).div (by decide +kernel)
      (by decide +kernel)).widen (by decide +kernel)

theorem labInLimit_of_within {v : Word} (h : Within (fneg labMax) labMax v) :
    isFinite v = true ∧ flt (fabs v) labLimit = true := by
  have hmax : fkey labMax < fkey labLimit := by decide
  have hle := fkey_le_of_fle ((within_fneg_iff h.finite h.finite_hi).1 h)
  exact ⟨h.finite, (flt_iff ((isFinite_fabs v).trans h.finite) (by decide)).2 (hle.trans_lt hmax)⟩

theorem labOfXyz_ok {n : Numerics} (hn : CbrtBounded n) {xr yr zr : Word} (hx : Within xyzMin c1024 xr)
    (hy : Within xyzMin c1024 yr) (hz : Within xyzMin c1024 zr) : (labOfXyz (cduWith n) xr yr zr).Ok := by
  have hfx := fLab_within hn hx
  have hfy := fLab_within hn hy
  have hfz := fLab_within hn hz
  have h16 : Within cSixteen cSixteen cSixteen := .refl (by decide)
  have hl := (hfy.mul (c := c116) (by decide +kernel)).sub h16 (by decide +kernel)
  have ha := (hfx.sub hfy (by decide +kernel)).mul (c := c500) (by decide +kernel)
  have hb := (hfy.sub hfz (by decide +kernel)).mul (c := c200) (by decide +kernel)
  simp only [Lab.Ok, labOfXyz, List.forall_mem_cons, List.not_mem_nil, false_implies, implies_true,
    and_true]
  exact ⟨labInLimit_of_within (hl.widen (by decide +kernel)),
    labInLimit_of_within (ha.widen (by decide +kernel)),
    labInLimit_of_within (hb.widen (by decide +kernel))⟩

/-- A row of `M_XYZ` sums to its white divisor, so that a normalised component is within the range of
the decoded channels (R138), up to rounding. -/
theorem xyz_within {rl gl bl : Word} (hr : Within linMin linMax rl)
    (hg : Within linMin linMax gl) (hb : Within linMin linMax bl) :
    Within xyzMin c1024 (fdiv (rowTimes mXyzCdu.r1 rl gl bl) cXn) ∧
    Within xyzMin c1024 (rowTimes mXyzCdu.r2 rl gl bl) ∧
    Within xyzMin c1024 (fdiv (rowTimes mXyzCdu.r3 rl gl bl) cZn) :=
  ⟨((hr.row hg hb (by decide +kernel)).div (by decide +kernel) (by decide +kernel)).widen
      (by decide +kernel),
    (hr.row hg hb (by decide +kernel)).widen (by decide +kernel),
    ((hr.row hg hb (by decide +kernel)).div (by decide +kernel) (by decide +kernel)).widen
      (by decide +kernel)⟩

/-- Settles O52: step 2 keeps order piece by piece, so its coordinates are bounded by those at the ends
of the ranges. -/
theorem legalRgbGivesLegalLab : Obligations.LegalRgbGivesLegalLab := by
  intro n t hn ht
  have hlin : ∀ v ∈ [t.r, t.g, t.b], Within linMin linMax (linFn v) := fun v hv =>
    linFn_within (ht v hv).1 (ht v hv).2
  obtain ⟨hx, hy, hz⟩ := xyz_within (hlin t.r (by simp)) (hlin t.g (by simp)) (hlin t.b (by simp))
  exact labOfXyz_ok hn hx hy hz

end Sys2Proof.Machine
end

section
/-! ### The corner points of step 2, and the commands of the converter (42_color_convert.md section 3) -/

namespace Sys2Proof.Machine

/-! #### Black and white (R145, R148) -/

theorem fLab_ramp (c : Params) {t : Word} (h : flt cEps t = false) :
    fLab c t = fdiv (fadd (fmul cKappa t) cSixteen) c116 := by
  rw [fLab, h, if_neg Bool.false_ne_true]

theorem fLab_root (c : Params) {t : Word} (h : flt cEps t = true) : fLab c t = c.num.cbrt t := by
  rw [fLab, if_pos h]

/-- Components with equal values of `f_lab` give a neutral point. -/
theorem rgb2labFn_neutral {n : Numerics} {t : Rgb} {xr yr zr f : Word}
    (hxyz : fdiv (rowTimes mXyzCdu.r1 (linFn t.r) (linFn t.g) (linFn t.b)) cXn = xr ∧
      rowTimes mXyzCdu.r2 (linFn t.r) (linFn t.g) (linFn t.b) = yr ∧
      fdiv (rowTimes mXyzCdu.r3 (linFn t.r) (linFn t.g) (linFn t.b)) cZn = zr)
    (hx : fLab (cduWith n) xr = f) (hy : fLab (cduWith n) yr = f) (hz : fLab (cduWith n) zr = f) :
    rgb2labFn (cduWith n) t =
      { l := fsub (fmul c116 f) cSixteen, a := fmul c500 (fsub f f), b := fmul c200 (fsub f f) } := by
  have hlab : rgb2labFn (cduWith n) t = labOfXyz (cduWith n) xr yr zr := by
    obtain ⟨rfl, rfl, rfl⟩ := hxyz
    rfl
  rw [hlab, labOfXyz, hx, hy, hz]

/-- Black is decoded, multiplied and divided to +0, where `f_lab` is the ramp. -/
theorem rgb2labFn_black (n : Numerics) :
    rgb2labFn (cduWith n) { r := 0, g := 0, b := 0 } = { l := 0, a := 0, b := 0 } := by
  have hf : fLab (cduWith n) 0 = _ := fLab_ramp _ (by decide)
  rw [rgb2labFn_neutral (xr := 0) (yr := 0) (zr := 0) (by decide +kernel) hf hf hf]
  decide +kernel

/-- White is decoded to 1, and its components are 1 or the upper neighbour of 1. -/
theorem rgb2labFn_white {n : Numerics} (hone : n.cbrt cOne = cOne) (hnext : n.cbrt 0x3F800001 = cOne) :
    rgb2labFn (cduWith n) { r := cOne, g := cOne, b := cOne } = { l := 0x42C80000, a := 0, b := 0 } := by
  have hf : fLab (cduWith n) cOne = cOne := (fLab_root _ (by decide)).trans hone
  have hf' : fLab (cduWith n) 0x3F800001 = cOne := (fLab_root _ (by decide)).trans hnext
  rw [rgb2labFn_neutral (xr := 0x3F800001) (yr := 0x3F800001) (zr := cOne) (by decide +kernel) hf' hf' hf]
  decide +kernel

/-- Settles O53: both points are evaluated up to the cube root, which black does not reach. -/
theorem blackAndWhitePoints : Obligations.BlackAndWhitePoints :=
  ⟨fun n => ⟨rgb2labFn_black n, rgb2labFn_white⟩,
    rgb2labFn_white (n := Ref.num) (by decide +kernel) (by decide +kernel)⟩

/-! #### The checks of the commands pass on legal operands (R146, R148, R150, R152) -/

theorem bitDepth_of_mem {bd : BitVec 2} {depth : Nat}
    (h : (bd, depth) ∈ [(0#2, 8), (1#2, 10), (2#2, 12)]) :
    bitDepth bd = some depth ∧ depth ∈ [8, 10, 12] := by
  simp only [List.mem_cons, List.not_mem_nil, or_false, Prod.mk.injEq] at h
  rcases h with ⟨rfl, rfl⟩ | ⟨rfl, rfl⟩ | ⟨rfl, rfl⟩ <;> decide

theorem firstFailed_sampleChecks {depth : Nat} {t : Yuv} (h : t.Ok depth) (side : Side) :
    firstFailed (sampleChecks depth side t) = none := by
  simpa [firstFailed_eq_none_iff, sampleChecks, sampleOk, Yuv.Ok] using h

theorem rgbOk_iff (v : Word) : rgbOk v = true ↔ isFinite v = true ∧ fle (fabs v) rgbLimit = true := by
  rw [rgbOk, Bool.and_eq_true]

theorem firstFailed_rgbChecks {t : Rgb} (h : t.Ok) (side : Side) :
    firstFailed (rgbChecks side t) = none := by
  simpa [firstFailed_eq_none_iff, rgbChecks, rgbOk_iff, Rgb.Ok] using h

/-- R135: the check `CVT` applies to its computed channels never fires. -/
theorem yuv2rgbFn_ok {t : Yuv} {depth : Nat} (hd : depth ∈ [8, 10, 12]) (ht : t.Ok depth) :
    (yuv2rgbFn cdu depth t).Ok := by
  intro v hv
  have hrange : Within (fneg rgbLimit) rgbLimit v :=
    (yuv2rgbFn_inChannelRange hd ht v hv).widen (by decide)
  exact ⟨hrange.finite, (within_fneg_iff hrange.finite hrange.finite_hi).1 hrange⟩

/-! #### What the commands leave when they succeed -/

theorem State.finish_setRgb (s : State) (side : Side) (t : Rgb) : (s.setRgb side t).finish =
    { s.setRgb side t with status := { s.status with done := true }, busy := false } := by
  rw [State.finish, State.setRgb_status]

theorem State.finish_setLab (s : State) (side : Side) (t : Lab) : (s.setLab side t).finish =
    { s.setLab side t with status := { s.status with done := true }, busy := false } := by
  rw [State.finish, State.setLab_status]

/-- A second completion, after more results, is one completion. -/
theorem State.setLab_finish_finish (s : State) (side : Side) (t : Lab) :
    (s.finish.setLab side t).finish = (s.setLab side t).finish := by
  cases side <;> rfl

theorem exec_yuv2rgb {s : State} {side : Side} {depth : Nat} (hb : bitDepth s.bd = some depth)
    (ht : (s.bank side).yuv.Ok depth) : exec (.yuv2rgb side) s =
      .next (s.setRgb side (yuv2rgbFn cdu depth (s.bank side).yuv)).finish := by
  rw [exec, execYuv2rgb, hb]
  exact State.settle_ok (firstFailed_sampleChecks ht side) _

theorem exec_rgb2lab {s : State} {side : Side} (ht : (s.bank side).rgb.Ok) :
    exec (.rgb2lab side) s = .next (s.setLab side (rgb2labFn cdu (s.bank side).rgb)).finish :=
  State.settle_ok (firstFailed_rgbChecks ht side) _

theorem exec_cvt {s : State} {side : Side} {depth : Nat} (hb : bitDepth s.bd = some depth)
    (hd : depth ∈ [8, 10, 12]) (ht : (s.bank side).yuv.Ok depth) : exec (.cvt side) s =
      .next ((s.setRgb side (yuv2rgbFn cdu depth (s.bank side).yuv)).setLab side
        (rgb2labFn cdu (yuv2rgbFn cdu depth (s.bank side).yuv))).finish := by
  rw [exec, execCvt, hb]
  refine State.settle_ok ?_ _
  rw [firstFailed_append, firstFailed_sampleChecks ht, firstFailed_rgbChecks (yuv2rgbFn_ok hd ht)]
  rfl

/-- Settles O41: the one check is the channel range, and the power is chosen above the threshold. -/
theorem linCompletes : Obligations.LinCompletes := by
  intro s hfin hlim
  have hok : rgbOk s.x = true := (rgbOk_iff s.x).2 ⟨hfin, hlim⟩
  calc exec .lin s
    _ = .next (s.setP (linFn s.x)).finish := State.settle_ok (firstFailed_xCheck_eq_none hok) _
    _ = _ := by rw [State.finish_setP]; rfl

/-- Settles O42: the samples pass their checks, and the components are those of R132. -/
theorem yuv2rgbCompletes : Obligations.Yuv2rgbCompletes := by
  intro s side depth hbd ht sc yn un vn
  obtain ⟨hb, -⟩ := bitDepth_of_mem hbd
  have hy : normalise (s.bank side).yuv.y 16 219 (2 ^ (depth - 8)) = yn := by
    simp [normalise, yn, sc]
  have hu : normalise (s.bank side).yuv.u 128 224 (2 ^ (depth - 8)) = un := by
    simp [normalise, un, sc]
  have hv : normalise (s.bank side).yuv.v 128 224 (2 ^ (depth - 8)) = vn := by
    simp [normalise, vn, sc]
  rw [exec_yuv2rgb hb ht, State.finish_setRgb, yuv2rgbFn, hy, hu, hv]
  rfl

/-- Settles O43: the channels pass their checks, and each function is its formula. -/
theorem rgb2labCompletes : Obligations.Rgb2labCompletes := by
  intro s side ht rl gl bl xr yr zr f
  rw [exec_rgb2lab ht, State.finish_setLab]
  rfl

/-- Settles O44: the computed channels are far inside `RGB_LIMIT`. -/
theorem cvtCompletes : Obligations.CvtCompletes := by
  intro s side depth hbd ht
  obtain ⟨hb, hd⟩ := bitDepth_of_mem hbd
  rw [exec_cvt hb hd ht, State.finish_setLab, State.setRgb_status]

/-- Settles O54: the second command reads the channels the first one wrote. -/
theorem cvtIsYuv2rgbThenRgb2lab : Obligations.CvtIsYuv2rgbThenRgb2lab := by
  intro s t u side depth hbd hyuv ht hu
  obtain ⟨hb, hd⟩ := bitDepth_of_mem hbd
  rw [exec_yuv2rgb hb hyuv] at ht
  cases ht
  have hrgb : ((s.setRgb side (yuv2rgbFn cdu depth (s.bank side).yuv)).finish.bank side).rgb =
      yuv2rgbFn cdu depth (s.bank side).yuv := by
    rw [State.finish_bank, State.setRgb_bank_rgb]
  rw [exec_rgb2lab (by rw [hrgb]; exact yuv2rgbFn_ok hd hyuv), hrgb, State.setLab_finish_finish] at hu
  rw [exec_cvt hb hd hyuv, hu]

end Sys2Proof.Machine
end

section
/-! ### The command `DE` (43_ciede2000.md section 4) -/

namespace Sys2Proof.Machine

/-- Settles O56: the distance is a square root (R174), which is never below 0. -/
theorem distanceIsNeverNegative : Obligations.DistanceIsNeverNegative := flt_de2000Fn_zero

theorem firstFailed_weightChecks {k : Weights} (h : k.Ok) : firstFailed (weightChecks k) = none := by
  simpa [firstFailed_eq_none_iff, weightChecks, weightOk, Weights.Ok, and_assoc] using h

theorem firstFailed_labChecks {t : Lab} (h : t.Ok) (side : Side) :
    firstFailed (labChecks side t) = none := by
  simpa [firstFailed_eq_none_iff, labChecks, labOk, Lab.Ok] using h

theorem exec_de {s : State} (hk : s.weights.Ok) (hp : s.side1.lab.Ok) (hq : s.side2.lab.Ok) :
    exec .de s = .next (s.setDe (de2000Fn cdu s.side1.lab s.side2.lab s.weights)).finish := by
  refine State.settle_ok ?_ _
  rw [firstFailed_append, firstFailed_append, firstFailed_weightChecks hk, firstFailed_labChecks hp,
    firstFailed_labChecks hq, Option.none_or, Option.none_or]

/-- R188: what `DE` leaves when it succeeds. -/
theorem State.finish_setDe (s : State) (w : Word) : (s.setDe w).finish =
    { s with de := w, status := { s.status with done := true }, busy := false } := rfl

/-! #### The steps from each point's lightness, chroma and hue -/

/-- What steps 1 to 3 make of a point: its lightness, its adjusted chroma and its hue (R164 to R166). -/
structure Polar where
  l : Word
  c : Word
  h : Word

/-- A point's adjusted chroma and hue under the factor `1 + G`. -/
def Lab.polar (n : Numerics) (opg : Word) (p : Lab) : Polar :=
  let c := hyp (fmul p.a opg) p.b
  { l := p.l, c := c, h := hue n p.b (fmul p.a opg) c }

/-- The factor `1 + G` of a pair of points (R164). -/
def chromaFactor (p q : Lab) : Word := fadd cOne (gFactor (mean (hyp p.a p.b) (hyp q.a q.b)))

/-- Steps 4 to 10 (R167 to R173) from the two points' lightness, chroma and hue. -/
def Polar.steps (c : Params) (x y : Polar) : Steps :=
  let zc := zeroChroma x.c y.c
  let dhp := hueDifference zc x.h y.h
  let lbp := mean x.l y.l
  let cbp := mean x.c y.c
  let hbp := meanHue zc x.h y.h
  let t := tTerm c.num hbp
  { c1p := x.c, c2p := y.c, h1p := x.h, h2p := y.h
    dlp := fsub y.l x.l
    dcp := fsub y.c x.c
    dhp := dhp
    dHp := hueTerm c.num x.c y.c dhp
    lbp := lbp, cbp := cbp, hbp := hbp, t := t
    sl := slTerm lbp
    sc := scTerm cbp
    sh := shTerm cbp t
    rt := rotation c cbp hbp }

theorem de2000Steps_eq (c : Params) (p q : Lab) : de2000Steps c p q =
    (p.polar c.num (chromaFactor p q)).steps c (q.polar c.num (chromaFactor p q)) := by
  rw [de2000Steps, Polar.steps, Lab.polar, Lab.polar, chromaFactor]

section Steps

variable (c : Params) (x y : Polar)

@[simp] theorem Polar.steps_dlp : (x.steps c y).dlp = fsub y.l x.l := by
  rw [Polar.steps]

@[simp] theorem Polar.steps_dcp : (x.steps c y).dcp = fsub y.c x.c := by
  rw [Polar.steps]

@[simp] theorem Polar.steps_dHp : (x.steps c y).dHp =
    hueTerm c.num x.c y.c (hueDifference (zeroChroma x.c y.c) x.h y.h) := by
  rw [Polar.steps]

@[simp] theorem Polar.steps_sl : (x.steps c y).sl = slTerm (mean x.l y.l) := by
  rw [Polar.steps]

@[simp] theorem Polar.steps_sc : (x.steps c y).sc = scTerm (mean x.c y.c) := by
  rw [Polar.steps]

@[simp] theorem Polar.steps_sh : (x.steps c y).sh =
    shTerm (mean x.c y.c) (tTerm c.num (meanHue (zeroChroma x.c y.c) x.h y.h)) := by
  rw [Polar.steps]

@[simp] theorem Polar.steps_rt : (x.steps c y).rt =
    rotation c (mean x.c y.c) (meanHue (zeroChroma x.c y.c) x.h y.h) := by
  rw [Polar.steps]

end Steps

/-- The lower end of the hue difference's interval (R168) as a pattern. -/
theorem fneg_c180 : fneg c180 = 0xC3340000 := by decide

/-- Settles O45: the nine operands pass their checks, and each step is its formula. -/
theorem deCompletes : Obligations.DeCompletes := by
  intro s hk hp hq p q k hyp pow7 root7 cbar opg a1p a2p c1p c2p hue h1p h2p dlp dcp zc d dhp dHp
    lbp cbp hs hbp cosd t lm lm2 sl sc sh rc z dth rt tl tc th r
  have hopg : chromaFactor p q = opg := rfl
  have hx : p.polar cdu.num opg = ⟨p.l, c1p, h1p⟩ := rfl
  have hy : q.polar cdu.num opg = ⟨q.l, c2p, h2p⟩ := rfl
  have hdhp : hueDifference zc h1p h2p = dhp := by rw [hueDifference, fneg_c180]; rfl
  have hzc : zeroChroma c1p c2p = zc := rfl
  have hcbp : mean c1p c2p = cbp := rfl
  have hsl : slTerm (mean p.l q.l) = sl := rfl
  have hsc : scTerm cbp = sc := rfl
  have hsh : shTerm cbp t = sh := rfl
  have hdHp : hueTerm cdu.num c1p c2p dhp = dHp := rfl
  have hhbp : meanHue zc h1p h2p = hbp := rfl
  have ht : tTerm cdu.num hbp = t := rfl
  have hrt : rotation cdu cbp hbp = rt := rfl
  have hr : (de2000Steps cdu p q).radicand k = r := by
    rw [de2000Steps_eq, hopg, hx, hy, Steps.radicand]
    simp only [Polar.steps_dlp, Polar.steps_dcp, Polar.steps_dHp, Polar.steps_sl, Polar.steps_sc,
      Polar.steps_sh, Polar.steps_rt, hzc, hdhp, hhbp, hcbp, hsl, hsc, ht, hsh, hdHp, hrt]
    rfl
  rw [exec_de hk hp hq, State.finish_setDe, de2000Fn, hr]
  rfl

end Sys2Proof.Machine
end

section
/-! ### Intervals: roots, and products and quotients of two operands that vary -/

namespace Sys2Proof.Machine

/-! #### Keys of roots and of quotients -/

theorem fkey_eq_zero_iff (w : Word) : fkey w = 0 ↔ fmag w = 0 := by
  rw [fkey]
  split <;> omega

theorem fkey_of_sign_false {w : Word} (h : fsign w = false) : fkey w = fmag w := by
  simp [fkey, h]

/-- A value that is no zero and not below 0 has no sign. -/
theorem fsign_eq_false_of_fkey_nonneg {w : Word} (h0 : 0 ≤ fkey w) (hz : fmag w ≠ 0) :
    fsign w = false := by
  by_contra hs
  rw [fkey, if_pos (by simpa using hs)] at h0
  omega

theorem fvalue_nonneg_iff {w : Word} (hw : isFinite w = true) : 0 ≤ fvalue w ↔ 0 ≤ fkey w :=
  ⟨fkey_le_of_fvalue_le (a := cZero) (by decide) hw, fvalue_le_of_fkey_le (a := cZero) (by decide) hw⟩

/-- Rounding keeps the order of quotients. -/
theorem roundKey_le_roundKey {m n : Int} {d e : Nat} (hd : 0 < d) (he : 0 < e) (h : m * e ≤ n * d) :
    roundKey m d ≤ roundKey n e := by
  have hround : ∀ {k l : Nat} {d e : Nat}, 0 < d → 0 < e → (k * e : Int) ≤ l * d →
      (roundUnits k d : Int) ≤ roundUnits l e := fun hd he hkl => by
    exact_mod_cast roundUnits_mono hd he (by exact_mod_cast hkl)
  unfold roundKey
  split <;> split
  case isTrue.isTrue hm hn =>
    refine neg_le_neg (hround he hd ?_)
    rw [Int.ofNat_natAbs_of_nonpos hm.le, Int.ofNat_natAbs_of_nonpos hn.le]
    linarith
  case isTrue.isFalse hm hn => omega
  case isFalse.isTrue hm hn =>
    have : 0 ≤ m * e := mul_nonneg (by omega) (by positivity)
    have : n * d < 0 := mul_neg_of_neg_of_pos hn (by positivity)
    omega
  case isFalse.isFalse hm hn =>
    refine hround hd he ?_
    rwa [Int.natAbs_of_nonneg (by omega), Int.natAbs_of_nonneg (by omega)]

/-- The root of a value that is not below 0 is finite and not below 0 (R12). -/
theorem fsqrt_nonneg {a : Word} (ha : isFinite a = true) (h0 : 0 ≤ fkey a) :
    isFinite (fsqrt a) = true ∧ 0 ≤ fkey (fsqrt a) := by
  by_cases hz : fmag a = 0
  · rw [fsqrt_zero hz]
    exact ⟨ha, h0⟩
  · obtain ⟨hfin, hsign, -⟩ := squareRootRoundsToNearest a ha (fsign_eq_false_of_fkey_nonneg h0 hz)
    exact ⟨hfin, by simp [fkey_of_sign_false hsign]⟩

/-- On values without a sign the order of keys is that of magnitudes. -/
theorem funits_lt_of_fkey_lt {a b : Word} (hb : isFinite b = true) (hsa : fsign a = false)
    (hsb : fsign b = false) (h : fkey a < fkey b) : funits a < funits b := by
  rw [fkey_of_sign_false hsa, fkey_of_sign_false hsb] at h
  rw [funits_eq, funits_eq]
  exact magUnits_strictMono (by exact_mod_cast h) (fmag_le_infMag hb)

/-- A root is at most any `b` whose square is at least the operand: a root past `b` would be nearer
to `b`. -/
theorem fkey_fsqrt_le {a b : Word} (ha : isFinite a = true) (hb : isFinite b = true) (h0 : 0 ≤ fkey a)
    (hsb : fsign b = false) (h : funits a * 2 ^ 149 ≤ funits b ^ 2) : fkey (fsqrt a) ≤ fkey b := by
  by_cases hz : fmag a = 0
  · rw [fsqrt_zero hz, (fkey_eq_zero_iff a).2 hz, fkey_of_sign_false hsb]
    exact Int.natCast_nonneg _
  obtain ⟨hfin, hsign, hnear⟩ := squareRootRoundsToNearest a ha (fsign_eq_false_of_fkey_nonneg h0 hz)
  by_contra hlt
  have hunits := funits_lt_of_fkey_lt hfin hsb hsign (not_le.1 hlt)
  have hmid := ((hnear b hb hsb).2 hunits).1
  have hpast : (2 * funits b) ^ 2 < (funits (fsqrt a) + funits b) ^ 2 :=
    Nat.pow_lt_pow_left (by omega) two_ne_zero
  rw [Nat.mul_pow] at hpast
  omega

/-- A root is at least any `b` whose square is at most the operand. -/
theorem le_fkey_fsqrt {a b : Word} (ha : isFinite a = true) (hb : isFinite b = true) (h0 : 0 ≤ fkey a)
    (hsb : fsign b = false) (h : funits b ^ 2 ≤ funits a * 2 ^ 149) : fkey b ≤ fkey (fsqrt a) := by
  by_cases hz : fmag a = 0
  · have hzb : fmag b = 0 := by
      by_contra hzb
      have hpos := pow_pos (funits_pos hzb hb) 2
      rw [funits_eq_zero hz, Nat.zero_mul] at h
      omega
    rw [(fkey_eq_zero_iff b).2 hzb]
    exact (fsqrt_nonneg ha h0).2
  obtain ⟨hfin, hsign, hnear⟩ := squareRootRoundsToNearest a ha (fsign_eq_false_of_fkey_nonneg h0 hz)
  by_contra hlt
  have hunits := funits_lt_of_fkey_lt hb hsign hsb (not_le.1 hlt)
  have hmid := ((hnear b hb hsb).1 hunits).1
  have hshort : (funits (fsqrt a) + funits b) ^ 2 < (2 * funits b) ^ 2 :=
    Nat.pow_lt_pow_left (by omega) two_ne_zero
  rw [Nat.mul_pow] at hshort
  omega

theorem funits_eq_fvalue {w : Word} (h : 0 ≤ fvalue w) : (funits w : Int) = fvalue w := by
  unfold fvalue at *
  split at h
  case isTrue => omega
  case isFalse hs => rw [if_neg hs]

/-- Rounding keeps the order of quotients by positive operands. -/
theorem fkey_fdiv_le {a b d e : Word} (ha : isFinite a = true) (hb : isFinite b = true)
    (hd : isFinite d = true ∧ 0 < fvalue d) (he : isFinite e = true ∧ 0 < fvalue e)
    (h : fvalue a * fvalue e ≤ fvalue b * fvalue d) : fkey (fdiv a d) ≤ fkey (fdiv b e) := by
  rw [fkey_fdiv ha hd.1 hd.2, fkey_fdiv hb he.1 he.2]
  refine roundKey_le_roundKey (funits_pos_of_fvalue hd.2.ne') (funits_pos_of_fvalue he.2.ne') ?_
  rw [funits_eq_fvalue hd.2.le, funits_eq_fvalue he.2.le]
  linarith

/-! #### Ends of intervals -/

section Ends

variable {lo hi lo' hi' l u v w : Word}

/-- A root is between patterns whose squares enclose the operand's interval. -/
theorem Within.sqrt (h : Within lo hi w)
    (hends : (isFinite l = true ∧ isFinite u = true) ∧ (fsign l = false ∧ fsign u = false) ∧
      0 ≤ fvalue lo ∧ funits l ^ 2 ≤ funits lo * 2 ^ 149 ∧ funits hi * 2 ^ 149 ≤ funits u ^ 2) :
    Within l u (fsqrt w) := by
  obtain ⟨⟨hl, hu⟩, ⟨hsl, hsu⟩, h0, hlo, hhi⟩ := hends
  have hw := h0.trans h.lo_fvalue_le
  have hk := (fvalue_nonneg_iff h.finite).1 hw
  have hunits : ∀ {v v' : Word}, 0 ≤ fvalue v → fvalue v ≤ fvalue v' → funits v ≤ funits v' := by
    intro v v' hv hle
    zify
    rwa [funits_eq_fvalue hv, funits_eq_fvalue (hv.trans hle)]
  refine ⟨hl, hu, le_fkey_fsqrt h.finite hl hk hsl (hlo.trans ?_),
    fkey_fsqrt_le h.finite hu hk hsu (le_trans ?_ hhi)⟩
  · exact Nat.mul_le_mul_right _ (hunits h0 h.lo_fvalue_le)
  · exact Nat.mul_le_mul_right _ (hunits hw h.fvalue_le_hi)

/-- A multiple of a value in an interval is at most that of one of the ends. -/
theorem Within.exists_end (h : Within lo hi w) (c : Int) :
    ∃ e ∈ [lo, hi], Within lo hi e ∧ fvalue w * c ≤ fvalue e * c := by
  have hle := h.lo_le.trans h.le_hi
  rcases le_total 0 c with hc | hc
  · exact ⟨hi, by simp, ⟨h.finite_lo, h.finite_hi, hle, le_rfl⟩,
      mul_le_mul_of_nonneg_right h.fvalue_le_hi hc⟩
  · exact ⟨lo, by simp, ⟨h.finite_lo, h.finite_hi, le_rfl, hle⟩,
      mul_le_mul_of_nonpos_right h.lo_fvalue_le hc⟩

/-- Whether an operation's results at the ends of two intervals are between two finite patterns. -/
def endsWithin (f : Word → Word → Word) (l u lo hi lo' hi' : Word) : Bool :=
  isFinite l && isFinite u && [lo, hi].all fun x => [lo', hi'].all fun y =>
    decide (fkey l ≤ fkey (f x y)) && decide (fkey (f x y) ≤ fkey u)

theorem within_of_endsWithin {f : Word → Word → Word} (h : endsWithin f l u lo hi lo' hi' = true) :
    ∀ x ∈ [lo, hi], ∀ y ∈ [lo', hi'], Within l u (f x y) := by
  simp only [endsWithin, Bool.and_eq_true, List.all_eq_true, decide_eq_true_eq] at h
  obtain ⟨⟨hl, hu⟩, hends⟩ := h
  exact fun x hx y hy => ⟨hl, hu, (hends x hx y hy).1, (hends x hx y hy).2⟩

/-- A product is linear in each operand, so it is between bounds that it meets at the ends. -/
theorem Within.mulEnds (hv : Within lo hi v) (hw : Within lo' hi' w)
    (h : endsWithin fmul l u lo hi lo' hi' = true) : Within l u (fmul v w) := by
  have hends := within_of_endsWithin h
  have hlu := hends lo (by simp) lo' (by simp)
  refine ⟨hlu.finite_lo, hlu.finite_hi, ?_, ?_⟩
  · obtain ⟨x, hx, hxw, hvx⟩ := hv.exists_end (-fvalue w)
    obtain ⟨y, hy, hyw, hwy⟩ := hw.exists_end (-fvalue x)
    refine (hends x hx y hy).lo_le.trans ?_
    rw [fkey_fmul hxw.finite hyw.finite, fkey_fmul hv.finite hw.finite]
    exact roundKey_mono (by positivity) (by linarith)
  · obtain ⟨x, hx, hxw, hvx⟩ := hv.exists_end (fvalue w)
    obtain ⟨y, hy, hyw, hwy⟩ := hw.exists_end (fvalue x)
    refine le_trans ?_ (hends x hx y hy).le_hi
    rw [fkey_fmul hxw.finite hyw.finite, fkey_fmul hv.finite hw.finite]
    exact roundKey_mono (by positivity) (by linarith)

/-- A product with a constant on the right. -/
theorem Within.mulConst {c : Word} (hv : Within lo hi v) (h : endsWithin fmul l u lo hi c c = true) :
    Within l u (fmul v c) := by
  have hfin := (within_of_endsWithin h lo (by simp) c (by simp)).finite
  exact hv.mulEnds (.refl (finite_of_fmul hfin).2) h

/-- A square is not below 0. -/
theorem Within.square {b : Word} (h : Within (fneg b) b w) (hfin : isFinite (fmul b b) = true) :
    Within cZero (fmul b b) (fmul w w) := by
  have hlo := h.lo_fvalue_le
  rw [fvalue_fneg] at hlo
  have hz : fkey cZero = roundKey 0 (2 ^ 149) := by simp [roundKey, fkey_eq_zero_iff, fmag, cZero]
  refine ⟨by decide, hfin, ?_, ?_⟩
  · rw [hz, fkey_fmul h.finite h.finite]
    exact roundKey_mono (by positivity) (mul_self_nonneg _)
  · rw [fkey_fmul h.finite h.finite, fkey_fmul h.finite_hi h.finite_hi]
    exact roundKey_mono (by positivity) (by simpa only [sq] using sq_le_sq' hlo h.fvalue_le_hi)

/-- A quotient by a positive operand is linear in the dividend and monotone in the divisor, so it is
between bounds that it meets at the ends. -/
theorem Within.divEnds (hv : Within lo hi v) (hw : Within lo' hi' w)
    (h : endsWithin fdiv l u lo hi lo' hi' = true ∧ 0 < fvalue lo') : Within l u (fdiv v w) := by
  obtain ⟨h, hpos⟩ := h
  have hends := within_of_endsWithin h
  have hlu := hends lo (by simp) lo' (by simp)
  have hdivisor : ∀ {y : Word}, Within lo' hi' y → isFinite y = true ∧ 0 < fvalue y := fun hy =>
    ⟨hy.finite, hpos.trans_le hy.lo_fvalue_le⟩
  refine ⟨hlu.finite_lo, hlu.finite_hi, ?_, ?_⟩
  · obtain ⟨x, hx, hxw, hvx⟩ := hv.exists_end (-1)
    obtain ⟨y, hy, hyw, hwy⟩ := hw.exists_end (fvalue x)
    refine (hends x hx y hy).lo_le.trans
      (fkey_fdiv_le hxw.finite hv.finite (hdivisor hyw) (hdivisor hw) ?_)
    calc fvalue x * fvalue w ≤ fvalue x * fvalue y := by linarith
      _ ≤ fvalue v * fvalue y := mul_le_mul_of_nonneg_right (by linarith) (hdivisor hyw).2.le
  · obtain ⟨x, hx, hxw, hvx⟩ := hv.exists_end 1
    obtain ⟨y, hy, hyw, hwy⟩ := hw.exists_end (-fvalue x)
    refine le_trans (fkey_fdiv_le hv.finite hxw.finite (hdivisor hw) (hdivisor hyw) ?_)
      (hends x hx y hy).le_hi
    calc fvalue v * fvalue y ≤ fvalue x * fvalue y :=
          mul_le_mul_of_nonneg_right (by linarith) (hdivisor hyw).2.le
      _ ≤ fvalue x * fvalue w := by linarith

end Ends

end Sys2Proof.Machine
end

section
/-! ### The ranges of the distance's steps (43_ciede2000.md R185) -/

namespace Sys2Proof.Machine

/-- `2^e`: 1.0 with its exponent field raised by `e`. -/
def twoPow (e : Nat) : Word := BitVec.ofNat 32 ((127 + e) * 0x800000)

/-- 1.5, the greatest factor `1 + G`. -/
def chromaFactorMax : Word := 0x3FC00000

/-- `1.5 * 2^14`, above the greatest adjusted a-coordinate. -/
def adjustedMax : Word := 0x46C00000

/-- 720, above every hue difference and mean hue. -/
def c720 : Word := 0x44340000

/-- At most `b` in magnitude. -/
abbrev AbsWithin (b w : Word) : Prop := Within (fneg b) b w

/-! #### Operands in range, and the bounds of `NUM` -/

theorem absWithin_of_fle {b w : Word} (hb : isFinite b = true) (h : fle (fabs w) b = true) :
    AbsWithin b w := by
  have hk := fkey_le_of_fle h
  rw [fkey_fabs, abs_le, ← fkey_fneg] at hk
  exact ⟨by simpa, hb, hk.1, hk.2⟩

theorem fle_of_flt {a b : Word} (h : flt a b = true) : fle a b = true := by
  simp only [flt, fle, Bool.and_eq_true, decide_eq_true_eq] at *
  exact ⟨h.1, h.2.le⟩

theorem Lab.Ok.absWithin {t : Lab} (h : t.Ok) :
    AbsWithin labLimit t.l ∧ AbsWithin labLimit t.a ∧ AbsWithin labLimit t.b := by
  have hv : ∀ v ∈ [t.l, t.a, t.b], AbsWithin labLimit v := fun v hv =>
    absWithin_of_fle (by decide) (fle_of_flt (h v hv).2)
  exact ⟨hv _ (by simp), hv _ (by simp), hv _ (by simp)⟩

theorem Weights.Ok.within {k : Weights} (h : k.Ok) :
    Within kMin kMax k.kl ∧ Within kMin kMax k.kc ∧ Within kMin kMax k.kh := by
  have hv : ∀ v ∈ [k.kl, k.kc, k.kh], Within kMin kMax v := fun v hv =>
    .of_fle (by decide) (by decide) (h v hv).2.1 (h v hv).2.2
  exact ⟨hv _ (by simp), hv _ (by simp), hv _ (by simp)⟩

section Num

variable {n : Numerics} (hn : Bounded n)

include hn

theorem Bounded.sin_within {x : Word} (hx : isFinite x = true) : AbsWithin cOne (n.sin x) :=
  absWithin_of_fle (by decide) (hn.sin_le x hx)

theorem Bounded.cos_within {x : Word} (hx : isFinite x = true) : AbsWithin cOne (n.cos x) :=
  absWithin_of_fle (by decide) (hn.cos_le x hx)

theorem Bounded.atan2_within {y x : Word} (hy : isFinite y = true) (hx : isFinite x = true) :
    AbsWithin cPi (n.atan2 y x) :=
  absWithin_of_fle (by decide) (hn.atan2_le y x hy hx)

theorem Bounded.exp_within {x : Word} (hx : isFinite x = true) (h0 : fle x cZero = true) :
    Within cZero cOne (n.exp x) :=
  .of_fle (by decide) (by decide) (hn.exp_le x hx h0).1 (hn.exp_le x hx h0).2

end Num

theorem finite_deg2rad {d : Word} (h : AbsWithin (twoPow 12) d) : isFinite (deg2rad d) = true :=
  have hr : AbsWithin (twoPow 12) (deg2rad d) := h.mulConst (by decide)
  hr.finite

/-! #### Steps 1 to 3: chroma and hue -/

theorem hyp_within {p q : Word} (hp : AbsWithin adjustedMax p) (hq : AbsWithin labLimit q) :
    Within cZero (twoPow 15) (hyp p q) :=
  ((hp.square (by decide)).add (hq.square (by decide)) (by decide)).sqrt (by decide)

theorem mean_chroma_within {a b : Word} (ha : Within cZero (twoPow 15) a)
    (hb : Within cZero (twoPow 15) b) : Within cZero (twoPow 15) (mean a b) :=
  (ha.add hb (by decide)).mulConst (by decide)

theorem pow7_within {c : Word} (h : Within cZero (twoPow 15) c) : Within cZero (twoPow 105) (pow7 c) :=
  have h2 : Within cZero (twoPow 30) (fmul c c) := h.mulEnds h (by decide)
  have h3 : Within cZero (twoPow 45) (fmul (fmul c c) c) := h2.mulEnds h (by decide)
  have h6 : Within cZero (twoPow 90) (fmul (fmul (fmul c c) c) (fmul (fmul c c) c)) :=
    h3.mulEnds h3 (by decide)
  h6.mulEnds h (by decide)

/-- A quotient by a divisor that is at least the dividend is at most 1. -/
theorem fdiv_within_one {a d : Word} (ha : isFinite a = true) (h0 : 0 ≤ fvalue a)
    (hd : isFinite d = true ∧ 0 < fvalue d) (h : fvalue a ≤ fvalue d) :
    Within cZero cOne (fdiv a d) := by
  have hone : isFinite cOne = true ∧ 0 < fvalue cOne := by decide
  have hends : fkey cZero = fkey (fdiv cZero cOne) ∧ fkey (fdiv cOne cOne) = fkey cOne := by decide
  refine ⟨by decide, by decide, ?_, ?_⟩
  · rw [hends.1]
    refine fkey_fdiv_le (by decide) ha hone hd ?_
    rw [fvalue_eq_zero (w := cZero) (by decide), zero_mul]
    exact mul_nonneg h0 hone.2.le
  · rw [← hends.2]
    refine fkey_fdiv_le ha (by decide) hd hone ?_
    rw [mul_comm]
    exact mul_le_mul_of_nonneg_left h hone.2.le

/-- Adding what is not below 0 does not decrease. -/
theorem fvalue_le_fadd {a b : Word} (ha : isFinite a = true) (hb : isFinite b = true)
    (hfin : isFinite (fadd a b) = true) (h0 : 0 ≤ fvalue b) : fvalue a ≤ fvalue (fadd a b) := by
  refine fvalue_le_of_fkey_le ha hfin ?_
  rw [fkey_fadd ha hb, fkey_eq_roundKey ha]
  exact roundKey_mono Nat.one_pos (by linarith)

theorem chromaRatio_within {c : Word} (h : Within cZero (twoPow 15) c) :
    Within cZero cOne (chromaRatio c) := by
  have h7 := pow7_within h
  have hc : Within cPow25 cPow25 cPow25 := .refl (by decide)
  have hsum := h7.add hc (by decide)
  have hends : 0 < fvalue (fadd cZero cPow25) ∧ 0 ≤ fvalue cPow25 ∧ 0 ≤ fvalue cZero := by decide
  obtain ⟨hsum0, hc0, hz0⟩ := hends
  have hquot := fdiv_within_one h7.finite (hz0.trans h7.lo_fvalue_le)
    ⟨hsum.finite, hsum0.trans_le hsum.lo_fvalue_le⟩ (fvalue_le_fadd h7.finite hc.finite hsum.finite hc0)
  exact hquot.sqrt (by decide)

/-- The factor `1 + G` lies in [1, 1.5] (R164). -/
theorem chromaFactor_within {p q : Lab} (hp : p.Ok) (hq : q.Ok) :
    Within cOne chromaFactorMax (chromaFactor p q) := by
  have hone : Within cOne cOne cOne := .refl (by decide)
  obtain ⟨-, hpa, hpb⟩ := hp.absWithin
  obtain ⟨-, hqa, hqb⟩ := hq.absWithin
  have hr := chromaRatio_within (mean_chroma_within
    (hyp_within (hpa.widen (by decide)) hpb) (hyp_within (hqa.widen (by decide)) hqb))
  have hg := (hone.sub hr (by decide)).mul (c := cHalf) (by decide)
  exact (hone.add hg (by decide)).widen (by decide)

/-- The hue lies in [0, 360] (R166). -/
theorem hue_within {n : Numerics} (hn : Bounded n) {b ap : Word} (cp : Word) (hb : isFinite b = true)
    (hap : isFinite ap = true) : Within cZero c360 (hue n b ap cp) := by
  have hzero : Within cZero c360 cZero := ⟨by decide, by decide, by decide, by decide⟩
  have h : AbsWithin c360 (fmul (n.atan2 b ap) cRad2Deg) :=
    (hn.atan2_within hb hap).mulConst (by decide)
  have hc : Within c360 c360 c360 := .refl (by decide)
  have hfold : ∀ {w : Word}, Within cZero c360 w →
      Within cZero c360 (if fle c360 w then cZero else w) := fun hw => by split <;> assumption
  unfold hue
  split
  · exact hzero
  refine hfold ?_
  split
  case isTrue hneg =>
    have hlt := ((flt_zero_iff _).1 hneg).2
    have hrange : Within (fneg c360) cZero (fmul (n.atan2 b ap) cRad2Deg) :=
      ⟨by decide, by decide, h.lo_le, hlt.le⟩
    exact (hrange.add hc (by decide)).widen (by decide)
  case isFalse hnn =>
    rw [flt_iff h.finite (by decide), not_lt] at hnn
    exact ⟨by decide, by decide, hnn, h.le_hi⟩

/-- The ranges of what steps 1 to 3 make of a point in range. -/
structure Polar.Ok (x : Polar) : Prop where
  l : AbsWithin labLimit x.l
  c : Within cZero (twoPow 15) x.c
  h : Within cZero c360 x.h

theorem Lab.Ok.polar {n : Numerics} (hn : Bounded n) {p : Lab} (hp : p.Ok) {g : Word}
    (hg : Within cOne chromaFactorMax g) : (p.polar n g).Ok := by
  obtain ⟨hl, ha, hb⟩ := hp.absWithin
  have hap : AbsWithin adjustedMax (fmul p.a g) := ha.mulEnds hg (by decide)
  exact ⟨hl, hyp_within hap hb, hue_within hn _ hb.finite hap.finite⟩

/-! #### Steps 4 to 10 -/

/-- The difference of two values in [0, 360]. -/
theorem hueSub_within {g h : Word} (hg : Within cZero c360 g) (hh : Within cZero c360 h) :
    AbsWithin c360 (fsub g h) :=
  (hg.sub hh (by decide)).widen (by decide)

/-- `dhp` (R168), whichever branch it takes. -/
theorem hueDifference_within (zc : Bool) {h1 h2 : Word} (hh1 : Within cZero c360 h1)
    (hh2 : Within cZero c360 h2) : AbsWithin c720 (hueDifference zc h1 h2) := by
  have hd := hueSub_within hh2 hh1
  have hc : Within c360 c360 c360 := .refl (by decide)
  unfold hueDifference
  simp only
  split
  · exact ⟨by decide, by decide, by decide, by decide⟩
  split
  · exact (hd.sub hc (by decide)).widen (by decide)
  split
  · exact (hd.add hc (by decide)).widen (by decide)
  · exact hd.widen (by decide)

/-- `Hbp` (R170), whichever branch it takes. -/
theorem meanHue_within (zc : Bool) {h1 h2 : Word} (hh1 : Within cZero c360 h1)
    (hh2 : Within cZero c360 h2) : AbsWithin c720 (meanHue zc h1 h2) := by
  have hc : Within c360 c360 c360 := .refl (by decide)
  have hs : Within cZero c720 (fadd h1 h2) :=
    (hh1.add hh2 (by decide)).widen (by decide)
  unfold meanHue
  simp only
  split
  · exact hs.widen (by decide)
  split
  · exact hs.mulConst (by decide)
  split
  · exact (hs.add hc (by decide)).mulConst (by decide)
  · exact (hs.sub hc (by decide)).mulConst (by decide)

/-- The factor `2 * sqrt(C1' * C2')` of `dHp` (R169). -/
theorem twiceRoot_within {c1 c2 : Word} (h1 : Within cZero (twoPow 15) c1)
    (h2 : Within cZero (twoPow 15) c2) :
    Within cZero (twoPow 16) (fmul cTwo (fsqrt (fmul c1 c2))) := by
  have hprod : Within cZero (twoPow 30) (fmul c1 c2) := h1.mulEnds h2 (by decide)
  have hroot : Within cZero (twoPow 15) (fsqrt (fmul c1 c2)) := hprod.sqrt (by decide)
  exact (hroot.mul (by decide)).widen (by decide)

/-- The argument of the sine in `dHp` (R169). -/
theorem finite_hueTerm_angle {d : Word} (hd : AbsWithin c720 d) :
    isFinite (deg2rad (fmul d cHalf)) = true :=
  finite_deg2rad (hd.mulConst (by decide))

theorem hueTerm_within {n : Numerics} (hn : Bounded n) {c1 c2 d : Word}
    (h1 : Within cZero (twoPow 15) c1) (h2 : Within cZero (twoPow 15) c2) (hd : AbsWithin c720 d) :
    AbsWithin (twoPow 16) (hueTerm n c1 c2 d) :=
  (twiceRoot_within h1 h2).mulEnds (hn.sin_within (finite_hueTerm_angle hd)) (by decide)

/-- `T` lies in [0.07, 1.93] up to rounding (R185). -/
theorem tTerm_within {n : Numerics} (hn : Bounded n) {h : Word} (hh : AbsWithin c720 h) :
    Within cZero cTwo (tTerm n h) := by
  have hcos : ∀ {x : Word}, AbsWithin (twoPow 12) x → AbsWithin cOne (cosd n x) := fun hx =>
    hn.cos_within (finite_deg2rad hx)
  have hone : Within cOne cOne cOne := .refl (by decide)
  have h30 : Within c30 c30 c30 := .refl (by decide)
  have h6 : Within cSix cSix cSix := .refl (by decide)
  have h63 : Within c63 c63 c63 := .refl (by decide)
  have h1 := hcos ((hh.sub h30 (by decide)).widen (by decide))
  have h2 := hcos ((hh.mul (c := cTwo) (by decide)).widen (by decide))
  have h3 := hcos (((hh.mul (c := cThree) (by decide)).add h6 (by decide)).widen (by decide))
  have h4 := hcos (((hh.mul (c := cFour) (by decide)).sub h63 (by decide)).widen (by decide))
  have s1 := hone.sub (h1.mul (c := c017) (by decide)) (by decide)
  have s2 := s1.add (h2.mul (c := c024) (by decide)) (by decide)
  have s3 := s2.add (h3.mul (c := c032) (by decide)) (by decide)
  exact (s3.sub (h4.mul (c := c020) (by decide)) (by decide)).widen (by decide)

/-- `SL` is at least 1 (R185). -/
theorem slTerm_within {l : Word} (hl : AbsWithin labLimit l) : Within cOne (twoPow 23) (slTerm l) := by
  have hone : Within cOne cOne cOne := .refl (by decide)
  have h20 : Within cTwenty cTwenty cTwenty := .refl (by decide)
  have h50 : Within c50 c50 c50 := .refl (by decide)
  have hlm : AbsWithin (twoPow 15) (fsub l c50) := (hl.sub h50 (by decide)).widen (by decide)
  have hlm2 : Within cZero (twoPow 30) (fmul (fsub l c50) (fsub l c50)) :=
    (hlm.square (by decide)).widen (by decide)
  have hden := (h20.add hlm2 (by decide)).sqrt (l := cFour) (u := twoPow 16) (by decide)
  have hquot := (hlm2.mul (c := c0015) (by decide)).divEnds (l := cZero) (u := twoPow 22) hden (by decide)
  exact (hone.add hquot (by decide)).widen (by decide)

/-- `SC` is at least 1 (R185). -/
theorem scTerm_within {c : Word} (hc : Within cZero (twoPow 15) c) :
    Within cOne (twoPow 23) (scTerm c) := by
  have hone : Within cOne cOne cOne := .refl (by decide)
  exact (hone.add (hc.mul (by decide)) (by decide)).widen (by decide)

/-- `SH` is at least 1 (R185). -/
theorem shTerm_within {c t : Word} (hc : Within cZero (twoPow 15) c) (ht : Within cZero cTwo t) :
    Within cOne (twoPow 23) (shTerm c t) := by
  have hone : Within cOne cOne cOne := .refl (by decide)
  have hct : Within cZero (twoPow 16) (fmul (fmul c0015 c) t) :=
    (hc.mul (by decide)).mulEnds ht (by decide)
  exact (hone.add hct (by decide)).widen (by decide)

/-- `RT` is at most 2 in magnitude (R173). -/
theorem rotation_within {n : Numerics} (hn : Bounded n) {c h : Word} (hc : Within cZero (twoPow 15) c)
    (hh : AbsWithin c720 h) : AbsWithin cTwo (rotation (cduWith n) c h) := by
  have h275 : Within c275 c275 c275 := .refl (by decide)
  have h25 : Within c25 c25 c25 := .refl (by decide)
  have hrc := (chromaRatio_within hc).mul (c := cTwo) (by decide)
  have hq : AbsWithin (twoPow 6) (fdiv (fsub h c275) c25) :=
    (hh.sub h275 (by decide)).divEnds h25 (by decide)
  have hexp := (hq.square (by decide)).neg.widen (lo' := fneg (twoPow 12)) (hi' := cZero) (by decide)
  have hdth := (hn.exp_within hexp.finite hexp.fle_hi).mul (c := c60) (by decide)
  have hsin := hn.sin_within (finite_deg2rad (hdth.widen (by decide)))
  have hprod := hrc.mulEnds (l := fneg cTwo) (u := cTwo) hsin (by decide)
  exact (hprod.mul (c := rtSignCdu) (by decide)).widen (by decide)

/-- The ranges of the steps that the result is put together from. -/
structure Steps.Ok (v : Steps) : Prop where
  dlp : AbsWithin (twoPow 16) v.dlp
  dcp : AbsWithin (twoPow 16) v.dcp
  dHp : AbsWithin (twoPow 16) v.dHp
  sl  : Within cOne (twoPow 23) v.sl
  sc  : Within cOne (twoPow 23) v.sc
  sh  : Within cOne (twoPow 23) v.sh
  rt  : AbsWithin cTwo v.rt

theorem mean_lightness_within {a b : Word} (ha : AbsWithin labLimit a) (hb : AbsWithin labLimit b) :
    AbsWithin labLimit (mean a b) :=
  (ha.add hb (by decide)).mulConst (by decide)

theorem Polar.Ok.steps {n : Numerics} (hn : Bounded n) {x y : Polar} (hx : x.Ok) (hy : y.Ok) :
    (x.steps (cduWith n) y).Ok := by
  have hcbp := mean_chroma_within hx.c hy.c
  have hhbp := meanHue_within (zeroChroma x.c y.c) hx.h hy.h
  constructor
  case dlp =>
    rw [Polar.steps_dlp]
    exact (hy.l.sub hx.l (by decide)).widen (by decide)
  case dcp =>
    rw [Polar.steps_dcp]
    exact (hy.c.sub hx.c (by decide)).widen (by decide)
  case dHp =>
    rw [Polar.steps_dHp]
    exact hueTerm_within hn hx.c hy.c (hueDifference_within _ hx.h hy.h)
  case sl =>
    rw [Polar.steps_sl]
    exact slTerm_within (mean_lightness_within hx.l hy.l)
  case sc =>
    rw [Polar.steps_sc]
    exact scTerm_within hcbp
  case sh =>
    rw [Polar.steps_sh]
    exact shTerm_within hcbp (tTerm_within hn hhbp)
  case rt =>
    rw [Polar.steps_rt]
    exact rotation_within hn hcbp hhbp

/-! #### Step 11: the terms, the radicand and its root -/

/-- The denominator `k * S` of a term (R174), for each of the three scales. -/
theorem scale_within {k s : Word} (hk : Within kMin kMax k) (hs : Within cOne (twoPow 23) s) :
    Within kMin (twoPow 31) (fmul k s) :=
  hk.mulEnds hs (by decide)

theorem term_within {d k s : Word} (hd : AbsWithin (twoPow 16) d) (hk : Within kMin kMax k)
    (hs : Within cOne (twoPow 23) s) : AbsWithin (twoPow 24) (fdiv d (fmul k s)) :=
  hd.divEnds (scale_within hk hs) (by decide)

/-- The product of the last summand of the radicand. -/
theorem rotated_within {rt tc : Word} (hr : AbsWithin cTwo rt) (hc : AbsWithin (twoPow 24) tc) :
    AbsWithin (twoPow 25) (fmul rt tc) :=
  hr.mulEnds hc (by decide)

theorem crossTerm_within {rt tc th : Word} (hr : AbsWithin cTwo rt) (hc : AbsWithin (twoPow 24) tc)
    (hh : AbsWithin (twoPow 24) th) : AbsWithin (twoPow 49) (fmul (fmul rt tc) th) :=
  (rotated_within hr hc).mulEnds hh (by decide)

theorem term_square_within {t : Word} (h : AbsWithin (twoPow 24) t) :
    Within cZero (twoPow 48) (fmul t t) :=
  (h.square (by decide)).widen (by decide)

/-- The sum of squares in the radicand. -/
theorem squares_within {tl tc th : Word} (hl : AbsWithin (twoPow 24) tl)
    (hc : AbsWithin (twoPow 24) tc) (hh : AbsWithin (twoPow 24) th) :
    Within cZero (twoPow 50) (fadd (fadd (fmul tl tl) (fmul tc tc)) (fmul th th)) :=
  (((term_square_within hl).add (term_square_within hc) (by decide)).add
    (term_square_within hh) (by decide)).widen (by decide)

theorem finite_radicand {rt tl tc th : Word} (hr : AbsWithin cTwo rt) (hl : AbsWithin (twoPow 24) tl)
    (hc : AbsWithin (twoPow 24) tc) (hh : AbsWithin (twoPow 24) th) :
    isFinite (radicand rt tl tc th) = true :=
  ((squares_within hl hc hh).add (crossTerm_within hr hc hh) (by decide)).finite

theorem Steps.Ok.finite_radicand {v : Steps} (hv : v.Ok) {k : Weights} (hk : k.Ok) :
    isFinite (v.radicand k) = true :=
  have ⟨hkl, hkc, hkh⟩ := hk.within
  Machine.finite_radicand hv.rt (term_within hv.dlp hkl hv.sl) (term_within hv.dcp hkc hv.sc)
    (term_within hv.dHp hkh hv.sh)

/-- The guard keeps the operand of the root from being below 0 (R174). -/
theorem finite_guardedRoot {s : Word} (hs : isFinite s = true) : isFinite (guardedRoot s) = true := by
  unfold guardedRoot
  split
  case isTrue => exact (fsqrt_nonneg (by decide) (by decide)).1
  case isFalse h =>
    rw [flt_iff hs (by decide), not_lt] at h
    exact (fsqrt_nonneg hs h).1

/-- What steps 1 to 3 make of two points in range. -/
theorem polar_ok {n : Numerics} (hn : Bounded n) {p q : Lab} (hp : p.Ok) (hq : q.Ok) :
    (p.polar n (chromaFactor p q)).Ok ∧ (q.polar n (chromaFactor p q)).Ok :=
  have hg := chromaFactor_within hp hq
  ⟨hp.polar hn hg, hq.polar hn hg⟩

/-- The distance from the two points' lightness, chroma and hue. -/
theorem de2000Fn_eq (n : Numerics) (p q : Lab) (k : Weights) : de2000Fn (cduWith n) p q k =
    guardedRoot (((p.polar n (chromaFactor p q)).steps (cduWith n)
      (q.polar n (chromaFactor p q))).radicand k) := by
  rw [de2000Fn, de2000Steps_eq]
  rfl

/-- Settles O57: the steps keep to their ranges one by one, and every denominator is at least 2^-8. -/
theorem distanceIsFinite : Obligations.DistanceIsFinite := by
  intro n p q k hn hp hq hk
  obtain ⟨hx, hy⟩ := polar_ok hn hp hq
  rw [de2000Fn_eq]
  exact finite_guardedRoot ((hx.steps hn hy).finite_radicand hk)

end Sys2Proof.Machine
end

section
/-! ### The distance of a point to itself (43_ciede2000.md R186) -/

namespace Sys2Proof.Machine

/-! #### Zero differences of either sign make the radicand +0 -/

theorem fsub_self {a : Word} (ha : isFinite a = true) : fsub a a = cZero := by
  have hsum : fvalue a + fvalue (fneg a) = 0 := by rw [fvalue_fneg, add_neg_cancel]
  rw [fsub_finite ha ha, fadd_finite ha ((isFinite_fneg a).trans ha), if_pos hsum, fsign_fneg,
    Bool.and_not_self]
  rfl

theorem fsign_fmul_self {a : Word} (ha : isFinite a = true) : fsign (fmul a a) = false := by
  rw [fmul_finite ha ha, fsign_packSign _ (roundUnits_lt _ _), bne_self_eq_false]

theorem isFinite_of_zero {z : Word} (hz : fmag z = 0) : isFinite z = true := by
  simp [isFinite, hz, infMag]

theorem fmul_self_of_zero {z : Word} (hz : fmag z = 0) : fmul z z = cZero := by
  have hfin := isFinite_of_zero hz
  exact eq_of_sign_of_mag (fsign_fmul_self hfin) (fmag_fmul_zero hfin hz).2

theorem fmag_fdiv_zero {z d : Word} (hz : fmag z = 0) (hd : isFinite d = true) (h0 : fmag d ≠ 0) :
    fmag (fdiv z d) = 0 := by
  rw [fdiv_finite (isFinite_of_zero hz) hd h0, funits_eq_zero hz, Nat.zero_mul, roundUnits_zero,
    fmag_packSign _ (by decide)]

/-- With terms that are zeros of either sign the squares are +0, and so is their sum with a zero. -/
theorem radicand_zeros {rt tl tc th : Word} (hl : fmag tl = 0) (hc : fmag tc = 0) (hh : fmag th = 0)
    (hfin : isFinite (fmul rt tc) = true) : radicand rt tl tc th = cZero := by
  have hsum : fadd (fadd cZero cZero) cZero = cZero := by decide
  rw [radicand, fmul_self_of_zero hl, fmul_self_of_zero hc, fmul_self_of_zero hh, hsum]
  exact fadd_zero (by decide) (fmag_fmul_zero hfin hh).2 (by decide)

theorem fmag_ne_zero_of_within {lo hi w : Word} (h : Within lo hi w) (h0 : 0 < fkey lo) :
    fmag w ≠ 0 := by
  rw [Ne, ← fkey_eq_zero_iff]
  exact (h0.trans_le h.lo_le).ne'

theorem fmag_term_zero {d k s : Word} (hd : fmag d = 0) (hk : Within kMin kMax k)
    (hs : Within cOne (twoPow 23) s) : fmag (fdiv d (fmul k s)) = 0 :=
  have hks := scale_within hk hs
  fmag_fdiv_zero hd hks.finite (fmag_ne_zero_of_within hks (by decide))

theorem Steps.Ok.radicand_zeros {v : Steps} (hv : v.Ok) {k : Weights} (hk : k.Ok) (hl : fmag v.dlp = 0)
    (hc : fmag v.dcp = 0) (hh : fmag v.dHp = 0) : v.radicand k = cZero := by
  obtain ⟨hkl, hkc, hkh⟩ := hk.within
  exact Machine.radicand_zeros (fmag_term_zero hl hkl hv.sl) (fmag_term_zero hc hkc hv.sc)
    (fmag_term_zero hh hkh hv.sh) (rotated_within hv.rt (term_within hv.dcp hkc hv.sc)).finite

/-! #### The differences of a point to itself are zeros -/

theorem hueDifference_self (zc : Bool) {h : Word} (hh : isFinite h = true) :
    hueDifference zc h h = cZero := by
  rw [hueDifference, fsub_self hh]
  cases zc <;> decide

theorem fmag_hueTerm_zero {n : Numerics} (hsin : n.sin cZero = cZero) {c1 c2 : Word}
    (h1 : Within cZero (twoPow 15) c1) (h2 : Within cZero (twoPow 15) c2) :
    fmag (hueTerm n c1 c2 cZero) = 0 := by
  have hangle : deg2rad (fmul cZero cHalf) = cZero := by decide
  rw [hueTerm, hangle, hsin]
  exact (fmag_fmul_zero (twiceRoot_within h1 h2).finite rfl).2

/-- Two points with the same lightness, chroma and hue have a radicand of +0. -/
theorem Polar.Ok.radicand_self {n : Numerics} (hn : Bounded n) (hsin : n.sin cZero = cZero) {x : Polar}
    (hx : x.Ok) {k : Weights} (hk : k.Ok) : (x.steps (cduWith n) x).radicand k = cZero := by
  refine (hx.steps hn hx).radicand_zeros hk ?_ ?_ ?_
  · rw [Polar.steps_dlp, fsub_self hx.l.finite]
    rfl
  · rw [Polar.steps_dcp, fsub_self hx.c.finite]
    rfl
  · rw [Polar.steps_dHp, hueDifference_self _ hx.h.finite]
    exact fmag_hueTerm_zero hsin hx.c hx.c

/-- Settles O58: all three differences are zeros. -/
theorem distanceToItselfIsZero : Obligations.DistanceToItselfIsZero := by
  intro n p k hn hsin hp hk
  obtain ⟨hx, -⟩ := polar_ok hn hp hp
  rw [de2000Fn_eq, hx.radicand_self hn hsin hk]
  decide

end Sys2Proof.Machine
end

section
/-! ### The distance in either order (43_ciede2000.md R187) -/

namespace Sys2Proof.Machine

/-! #### Opposite values -/

/-- Values that differ in sign only; a zero of either sign is its own opposite. -/
def Opposite (a b : Word) : Prop := fkey b = -fkey a

theorem roundKey_neg (m : Int) (d : Nat) : roundKey (-m) d = -roundKey m d := by
  unfold roundKey
  rw [Int.natAbs_neg]
  rcases lt_trichotomy m 0 with h | rfl | h
  · rw [if_neg (by omega), if_pos h, neg_neg]
  · rw [Int.natAbs_zero, roundUnits_zero]
    rfl
  · rw [if_pos (by omega), if_neg (by omega)]

theorem fvalue_eq_of_fkey_eq {a b : Word} (ha : isFinite a = true) (hb : isFinite b = true)
    (h : fkey a = fkey b) : fvalue a = fvalue b :=
  le_antisymm (fvalue_le_of_fkey_le ha hb h.le) (fvalue_le_of_fkey_le hb ha h.ge)

theorem fmag_eq_natAbs_fkey (w : Word) : fmag w = (fkey w).natAbs := by
  rw [fkey]
  split <;> simp

theorem fsign_eq_decide_fkey {w : Word} (hz : fmag w ≠ 0) : fsign w = decide (fkey w < 0) := by
  rw [fkey]
  cases fsign w
  · simp
  · simpa using Nat.pos_of_ne_zero hz

theorem fkey_fsub {a b : Word} (ha : isFinite a = true) (hb : isFinite b = true) :
    fkey (fsub a b) = roundKey (fvalue a - fvalue b) 1 := by
  rw [fsub_finite ha hb, fkey_fadd ha ((isFinite_fneg b).trans hb), fvalue_fneg, Int.sub_eq_add_neg]

theorem eq_zero_of_fmag {w : Word} (h : fmag w = 0) : w = cZero ∨ w = fneg cZero := by
  cases hs : fsign w
  · exact .inl (eq_of_sign_of_mag hs h)
  · exact .inr (eq_of_sign_of_mag hs h)

theorem fkey_sin_zero {n : Numerics} (hodd : SinOdd n) {w : Word} (h : fmag w = 0) :
    fkey (n.sin w) = 0 := by
  obtain ⟨hneg, hzero⟩ := hodd
  have hkey : fkey (n.sin cZero) = 0 := by
    rw [feq, Bool.and_eq_true, decide_eq_true_eq] at hzero
    exact hzero.2
  rcases eq_zero_of_fmag h with rfl | rfl
  · exact hkey
  · rw [hneg cZero (by decide), fkey_fneg, hkey, neg_zero]

section Opposite

variable {a b c : Word} (h : Opposite a b) (ha : isFinite a = true)

include h

theorem Opposite.fmag_eq : fmag b = fmag a := by
  rw [fmag_eq_natAbs_fkey, fmag_eq_natAbs_fkey, h, Int.natAbs_neg]

include ha

theorem Opposite.finite : isFinite b = true := by
  rw [isFinite, h.fmag_eq]
  exact ha

theorem Opposite.fvalue_eq : fvalue b = -fvalue a := by
  rw [← fvalue_fneg]
  exact fvalue_eq_of_fkey_eq (h.finite ha) ((isFinite_fneg a).trans ha) (h.trans (fkey_fneg a).symm)

theorem Opposite.mul_left (hc : isFinite c = true) : Opposite (fmul c a) (fmul c b) := by
  rw [Opposite, fkey_fmul hc ha, fkey_fmul hc (h.finite ha), h.fvalue_eq ha, mul_neg, roundKey_neg]

theorem Opposite.mul_right (hc : isFinite c = true) : Opposite (fmul a c) (fmul b c) := by
  rw [fmul_comm_finite ha hc, fmul_comm_finite (h.finite ha) hc]
  exact h.mul_left ha hc

theorem Opposite.div (hc : isFinite c = true ∧ 0 < fvalue c) : Opposite (fdiv a c) (fdiv b c) := by
  rw [Opposite, fkey_fdiv ha hc.1 hc.2, fkey_fdiv (h.finite ha) hc.1 hc.2, h.fvalue_eq ha, neg_mul,
    roundKey_neg]

theorem Opposite.sub_add (hc : isFinite c = true) : Opposite (fsub a c) (fadd b c) := by
  rw [Opposite, fkey_fsub ha hc, fkey_fadd (h.finite ha) hc, h.fvalue_eq ha, ← roundKey_neg, neg_sub,
    neg_add_eq_sub]

theorem Opposite.add_sub (hc : isFinite c = true) : Opposite (fadd a c) (fsub b c) := by
  rw [Opposite, fkey_fadd ha hc, fkey_fsub (h.finite ha) hc, h.fvalue_eq ha, ← roundKey_neg, neg_add',
    sub_eq_add_neg]

/-- Squares do not depend on the sign. -/
theorem Opposite.mul_self : fmul a a = fmul b b := by
  have hunits : funits b = funits a := by rw [funits_eq, funits_eq, h.fmag_eq]
  rw [fmul_finite ha ha, fmul_finite (h.finite ha) (h.finite ha), hunits, bne_self_eq_false,
    bne_self_eq_false]

/-- A product of two opposites has the same value. -/
theorem Opposite.fkey_mul {c d : Word} (h' : Opposite c d) (hc : isFinite c = true) :
    fkey (fmul a c) = fkey (fmul b d) := by
  rw [fkey_fmul ha hc, fkey_fmul (h.finite ha) (h'.finite hc), h.fvalue_eq ha, h'.fvalue_eq hc,
    neg_mul_neg]

omit ha in
theorem Opposite.eq_fneg (hz : fmag a ≠ 0) : b = fneg a := by
  have hmag := h.fmag_eq.trans (fmag_fneg a).symm
  have hza : fmag (fneg a) ≠ 0 := by rwa [fmag_fneg]
  refine eq_of_sign_of_mag ?_ hmag
  rw [fsign_eq_decide_fkey (hmag ▸ hza), fsign_eq_decide_fkey hza, h, fkey_fneg]

/-- An odd sine keeps opposites, its value at a zero being a zero. -/
theorem Opposite.sin {n : Numerics} (hodd : SinOdd n) : Opposite (n.sin a) (n.sin b) := by
  by_cases hz : fmag a = 0
  · rw [Opposite, fkey_sin_zero hodd hz, fkey_sin_zero hodd (h.fmag_eq.trans hz), neg_zero]
  · rw [h.eq_fneg hz, hodd.1 a ha]
    exact fkey_fneg _

end Opposite

theorem opposite_fsub {p q : Word} (hp : isFinite p = true) (hq : isFinite q = true) :
    Opposite (fsub p q) (fsub q p) := by
  rw [Opposite, fkey_fsub hp hq, fkey_fsub hq hp, ← roundKey_neg, neg_sub]

/-! #### What exchanging the points leaves and what it negates -/

theorem mean_comm {a b : Word} (ha : isFinite a = true) (hb : isFinite b = true) : mean a b = mean b a := by
  rw [mean, mean, fadd_comm_finite ha hb]

theorem zeroChroma_comm (c1 c2 : Word) : zeroChroma c1 c2 = zeroChroma c2 c1 := Bool.or_comm _ _

theorem meanHue_comm (zc : Bool) {h1 h2 : Word} (hh1 : isFinite h1 = true) (hh2 : isFinite h2 = true) :
    meanHue zc h1 h2 = meanHue zc h2 h1 := by
  have hd : fabs (fsub h1 h2) = fabs (fsub h2 h1) := by
    rw [fabs, fabs, (opposite_fsub hh1 hh2).fmag_eq]
  rw [meanHue, meanHue, fadd_comm_finite hh1 hh2, hd]

/-- `hueDifference` by keys. -/
theorem hueDifference_eq (zc : Bool) {h1 h2 : Word} (hd : isFinite (fsub h2 h1) = true) :
    hueDifference zc h1 h2 = if zc then cZero
      else if fkey c180 < fkey (fsub h2 h1) then fsub (fsub h2 h1) c360
      else if fkey (fsub h2 h1) < -fkey c180 then fadd (fsub h2 h1) c360
      else fsub h2 h1 := by
  have h180 : isFinite c180 = true ∧ isFinite (fneg c180) = true := by decide
  simp only [hueDifference, flt_iff h180.1 hd, flt_iff hd h180.2, fkey_fneg]

/-- The closed interval of R168 treats both ends alike. -/
theorem opposite_hueDifference (zc : Bool) {h1 h2 : Word} (hh1 : Within cZero c360 h1)
    (hh2 : Within cZero c360 h2) : Opposite (hueDifference zc h1 h2) (hueDifference zc h2 h1) := by
  have hd := (hueSub_within hh2 hh1).finite
  have hopp := opposite_fsub hh2.finite hh1.finite
  have h360 : isFinite c360 = true := by decide
  have h180 : 0 < fkey c180 := by decide
  have hzero : Opposite cZero cZero := (by decide : fkey cZero = -fkey cZero)
  rw [hueDifference_eq zc hd, hueDifference_eq zc (hopp.finite hd), hopp]
  cases zc
  case true => exact hzero
  case false =>
    simp only [Bool.false_eq_true, if_false]
    by_cases hhi : fkey c180 < fkey (fsub h2 h1)
    · rw [if_pos hhi, if_neg (by omega), if_pos (by omega)]
      exact hopp.sub_add hd h360
    by_cases hlo : fkey (fsub h2 h1) < -fkey c180
    · rw [if_neg hhi, if_pos hlo, if_pos (by omega)]
      exact hopp.add_sub hd h360
    · rw [if_neg hhi, if_neg hlo, if_neg (by omega), if_neg (by omega)]
      exact hopp

/-- `dHp` changes sign with `dhp` (R187). -/
theorem Opposite.hueTerm {n : Numerics} (hn : Bounded n) (hodd : SinOdd n) {c1 c2 d d' : Word}
    (h : Opposite d d') (h1 : Within cZero (twoPow 15) c1) (h2 : Within cZero (twoPow 15) c2)
    (hd : AbsWithin c720 d) : Opposite (hueTerm n c1 c2 d) (hueTerm n c2 c1 d') := by
  have hangle : AbsWithin c360 (fmul d cHalf) := hd.mulConst (by decide)
  have hrad := finite_hueTerm_angle hd
  have hopp : Opposite (deg2rad (fmul d cHalf)) (deg2rad (fmul d' cHalf)) :=
    (h.mul_right hd.finite (by decide)).mul_right hangle.finite (by decide)
  rw [Machine.hueTerm, Machine.hueTerm, fmul_comm_finite h2.finite h1.finite]
  exact (hopp.sin hrad hodd).mul_left (hn.sin_within hrad).finite (twiceRoot_within h1 h2).finite

/-- How the steps change when the points are exchanged. -/
structure Steps.Swapped (v w : Steps) : Prop where
  dlp : Opposite v.dlp w.dlp
  dcp : Opposite v.dcp w.dcp
  dHp : Opposite v.dHp w.dHp
  sl  : w.sl = v.sl
  sc  : w.sc = v.sc
  sh  : w.sh = v.sh
  rt  : w.rt = v.rt

theorem Polar.Ok.steps_swapped {n : Numerics} (hn : Bounded n) (hodd : SinOdd n) {x y : Polar}
    (hx : x.Ok) (hy : y.Ok) : (x.steps (cduWith n) y).Swapped (y.steps (cduWith n) x) := by
  have hl := mean_comm hy.l.finite hx.l.finite
  have hc := mean_comm hy.c.finite hx.c.finite
  have hh := meanHue_comm (zeroChroma x.c y.c) hy.h.finite hx.h.finite
  have hdhp := hueDifference_within (zeroChroma x.c y.c) hx.h hy.h
  constructor
  case dlp =>
    rw [Polar.steps_dlp, Polar.steps_dlp]
    exact opposite_fsub hy.l.finite hx.l.finite
  case dcp =>
    rw [Polar.steps_dcp, Polar.steps_dcp]
    exact opposite_fsub hy.c.finite hx.c.finite
  case dHp =>
    rw [Polar.steps_dHp, Polar.steps_dHp, zeroChroma_comm y.c x.c]
    exact (opposite_hueDifference _ hx.h hy.h).hueTerm hn hodd hx.c hy.c hdhp
  case sl => rw [Polar.steps_sl, Polar.steps_sl, hl]
  case sc => rw [Polar.steps_sc, Polar.steps_sc, hc]
  case sh => rw [Polar.steps_sh, Polar.steps_sh, zeroChroma_comm y.c x.c, hc, hh]
  case rt => rw [Polar.steps_rt, Polar.steps_rt, zeroChroma_comm y.c x.c, hc, hh]

/-! #### The radicand -/

theorem fsign_fadd {a b : Word} (ha : isFinite a = true) (hb : isFinite b = true)
    (hsa : fsign a = false) (hsb : fsign b = false) : fsign (fadd a b) = false := by
  have hnonneg : ¬ fvalue a + fvalue b < 0 := by
    rw [fvalue, fvalue, hsa, hsb]
    simp only [Bool.false_eq_true, if_false]
    omega
  rw [fadd_finite ha hb]
  split
  · rw [fsign_packSign _ (by decide), hsa, Bool.false_and]
  · rw [fsign_packSign _ (roundUnits_lt _ _), decide_eq_false hnonneg]

/-- A sum with a term without a sign does not depend on the sign of a zero. -/
theorem fadd_congr_right {s a b : Word} (hs : isFinite s = true) (ha : isFinite a = true)
    (hb : isFinite b = true) (hsign : fsign s = false) (h : fkey a = fkey b) : fadd s a = fadd s b := by
  rw [fadd_finite hs ha, fadd_finite hs hb, fvalue_eq_of_fkey_eq ha hb h, hsign, Bool.false_and,
    Bool.false_and]

/-- With opposite terms the squares are the same, and the last summand has the same value. -/
theorem radicand_swapped {rt tl tc th tl' tc' th' : Word} (hr : AbsWithin cTwo rt)
    (hl : AbsWithin (twoPow 24) tl) (hc : AbsWithin (twoPow 24) tc) (hh : AbsWithin (twoPow 24) th)
    (hl' : Opposite tl tl') (hc' : Opposite tc tc') (hh' : Opposite th th') :
    radicand rt tl tc th = radicand rt tl' tc' th' := by
  have hrot := rotated_within hr hc
  have hcross := crossTerm_within hr hc hh
  have hsl := term_square_within hl
  have hsc := term_square_within hc
  have hsh := term_square_within hh
  have hkey := (hc'.mul_left hc.finite hr.finite).fkey_mul hrot.finite hh' hh.finite
  have hcross' : isFinite (fmul (fmul rt tc') th') = true := by
    rw [isFinite_iff_fkey, ← hkey, ← isFinite_iff_fkey]
    exact hcross.finite
  have hlc : isFinite (fadd (fmul tl tl) (fmul tc tc)) = true := (hsl.add hsc (by decide)).finite
  have hsign := fsign_fadd hlc hsh.finite (fsign_fadd hsl.finite hsc.finite (fsign_fmul_self hl.finite)
    (fsign_fmul_self hc.finite)) (fsign_fmul_self hh.finite)
  rw [radicand, radicand, ← hl'.mul_self hl.finite, ← hc'.mul_self hc.finite, ← hh'.mul_self hh.finite]
  exact fadd_congr_right (squares_within hl hc hh).finite hcross.finite hcross' hsign hkey

theorem Opposite.term {d d' k s : Word} (h : Opposite d d') (hd : AbsWithin (twoPow 16) d)
    (hk : Within kMin kMax k) (hs : Within cOne (twoPow 23) s) :
    Opposite (fdiv d (fmul k s)) (fdiv d' (fmul k s)) := by
  have hks := scale_within hk hs
  have hmin : 0 < fvalue kMin := by decide
  exact h.div hd.finite ⟨hks.finite, hmin.trans_le hks.lo_fvalue_le⟩

theorem Steps.Swapped.radicand_eq {v w : Steps} (h : v.Swapped w) (hv : v.Ok) {k : Weights}
    (hk : k.Ok) : v.radicand k = w.radicand k := by
  obtain ⟨hkl, hkc, hkh⟩ := hk.within
  rw [Steps.radicand, Steps.radicand, h.sl, h.sc, h.sh, h.rt]
  exact radicand_swapped hv.rt (term_within hv.dlp hkl hv.sl) (term_within hv.dcp hkc hv.sc)
    (term_within hv.dHp hkh hv.sh) (h.dlp.term hv.dlp hkl hv.sl) (h.dcp.term hv.dcp hkc hv.sc)
    (h.dHp.term hv.dHp hkh hv.sh)

theorem finite_hyp {t : Lab} (h : t.Ok) : isFinite (hyp t.a t.b) = true := by
  obtain ⟨-, ha, hb⟩ := h.absWithin
  exact (hyp_within (ha.widen (by decide)) hb).finite

theorem chromaFactor_comm {p q : Lab} (hp : p.Ok) (hq : q.Ok) : chromaFactor p q = chromaFactor q p := by
  rw [chromaFactor, chromaFactor, mean_comm (finite_hyp hp) (finite_hyp hq)]

/-- Settles O59: the differences change sign, the squares and the product of two of them do not. -/
theorem distanceIsSymmetric : Obligations.DistanceIsSymmetric := by
  intro n p q k hn hodd hp hq hk
  obtain ⟨hx, hy⟩ := polar_ok hn hp hq
  rw [de2000Fn_eq, de2000Fn_eq, chromaFactor_comm hq hp,
    (hx.steps_swapped hn hodd hy).radicand_eq (hx.steps hn hy) hk]

end Sys2Proof.Machine
end

section
/-! ### The control and composite commands (44_control_composite.md) -/

namespace Sys2Proof.Machine

/-- Settles O39: `NOP` has no check, so it completes with the state as it is. -/
theorem nopCompletes : Obligations.NopCompletes :=
  fun s => State.settle_ok (s := s) firstFailed_nil s

/-! #### `PIXEL` (R202) -/

theorem exec_pixel {s : State} {depth : Nat} (hb : bitDepth s.bd = some depth) (hk : s.weights.Ok)
    (h1 : s.side1.yuv.Ok depth) (h2 : s.side2.yuv.Ok depth) :
    let rgb1 := yuv2rgbFn cdu depth s.side1.yuv
    let rgb2 := yuv2rgbFn cdu depth s.side2.yuv
    let lab1 := rgb2labFn cdu rgb1
    let lab2 := rgb2labFn cdu rgb2
    exec .pixel s =
      .next (s.setPixel rgb1 rgb2 lab1 lab2 (de2000Fn cdu lab1 lab2 s.weights)).finish := by
  rw [exec, execPixel, hb]
  refine State.settle_ok ?_ _
  rw [firstFailed_append, firstFailed_append, firstFailed_weightChecks hk, firstFailed_sampleChecks h1,
    firstFailed_sampleChecks h2, Option.none_or, Option.none_or]

/-- R202: what `PIXEL` leaves when it succeeds, field by field. -/
theorem State.finish_setPixel (s : State) (rgb1 rgb2 : Rgb) (lab1 lab2 : Lab) (w : Word) :
    (s.setPixel rgb1 rgb2 lab1 lab2 w).finish =
      { s with
        side1 := { s.side1 with rgb := rgb1, lab := lab1 }
        side2 := { s.side2 with rgb := rgb2, lab := lab2 }
        de := w
        status := { s.status with done := true }
        busy := false } := rfl

/-- Settles O46: the checks are those of the weights and the samples only, and they pass. -/
theorem pixelCompletes : Obligations.PixelCompletes := by
  intro s depth hbd hk h1 h2 rgb1 rgb2 lab1 lab2
  obtain ⟨hb, -⟩ := bitDepth_of_mem hbd
  rw [exec_pixel hb hk h1 h2, State.finish_setPixel]

/-! #### `CVT 1`, `CVT 2` and `DE` in sequence (R202) -/

/-- What a successful `CVT` leaves: the six results of its side and the completion (R150). -/
def State.converted (s : State) (side : Side) (rgb : Rgb) (lab : Lab) : State :=
  ((s.setRgb side rgb).setLab side lab).finish

theorem eq_converted_of_exec_cvt {s t : State} {side : Side} {depth : Nat} {yuv : Yuv}
    (hb : bitDepth s.bd = some depth) (hd : depth ∈ [8, 10, 12]) (hyuv : (s.bank side).yuv = yuv)
    (hok : yuv.Ok depth) (h : exec (.cvt side) s = .next t) :
    t = s.converted side (yuv2rgbFn cdu depth yuv) (rgb2labFn cdu (yuv2rgbFn cdu depth yuv)) := by
  subst hyuv
  rw [exec_cvt hb hd hok] at h
  exact (Host.Outcome.next.inj h).symm

section Sequence

variable (s : State) (rgb1 rgb2 : Rgb) (lab1 lab2 : Lab)

/-- `CVT 2` reads no register that `CVT 1` writes. -/
theorem State.converted_one_operands :
    (s.converted .one rgb1 lab1).bd = s.bd ∧
    ((s.converted .one rgb1 lab1).bank .two).yuv = s.side2.yuv := ⟨rfl, rfl⟩

/-- `DE` reads the weights, which the conversions leave, and the two points they wrote. -/
theorem State.converted_both_operands :
    ((s.converted .one rgb1 lab1).converted .two rgb2 lab2).weights = s.weights ∧
    ((s.converted .one rgb1 lab1).converted .two rgb2 lab2).side1.lab = lab1 ∧
    ((s.converted .one rgb1 lab1).converted .two rgb2 lab2).side2.lab = lab2 := ⟨rfl, rfl, rfl⟩

/-- The writes of the three commands are those of `PIXEL`, and their completions are one. -/
theorem State.finish_setDe_converted_both (w : Word) :
    (((s.converted .one rgb1 lab1).converted .two rgb2 lab2).setDe w).finish =
      (s.setPixel rgb1 rgb2 lab1 lab2 w).finish := rfl

end Sequence

theorem exec_de_converted_both {s u : State} {rgb1 rgb2 : Rgb} {lab1 lab2 : Lab}
    (hu : u = (s.converted .one rgb1 lab1).converted .two rgb2 lab2) (hk : s.weights.Ok)
    (hp : u.side1.lab.Ok) (hq : u.side2.lab.Ok) : exec .de u =
      .next (s.setPixel rgb1 rgb2 lab1 lab2 (de2000Fn cdu lab1 lab2 s.weights)).finish := by
  obtain ⟨hw, hl1, hl2⟩ := s.converted_both_operands rgb1 rgb2 lab1 lab2
  rw [← hu] at hw hl1 hl2
  rw [exec_de (hw ▸ hk) hp hq, hw, hl1, hl2, hu, State.finish_setDe_converted_both]

/-- Settles O55: each command reads what the ones before it leave or write, and the writes add up. -/
theorem pixelIsCvtCvtDe : Obligations.PixelIsCvtCvtDe := by
  intro s t u v depth hbd hk h1 h2 hcvt1 hcvt2 hp hq hde
  obtain ⟨hb, hd⟩ := bitDepth_of_mem hbd
  have hbank : (s.bank .one).yuv = s.side1.yuv := rfl
  have ht := eq_converted_of_exec_cvt hb hd hbank h1 hcvt1
  obtain ⟨hbd', hyuv⟩ : t.bd = s.bd ∧ (t.bank .two).yuv = s.side2.yuv :=
    ht ▸ s.converted_one_operands _ _
  have hu := eq_converted_of_exec_cvt (hbd' ▸ hb) hd hyuv h2 hcvt2
  rw [ht] at hu
  rw [exec_pixel hb hk h1 h2, ← hde, exec_de_converted_both hu hk hp hq]

end Sys2Proof.Machine
end

section
/-! ### Reset (70_reset_and_hazards.md) -/

namespace Sys2Proof.Machine

/-! #### Asserting reset, and the host's accesses while it is held (R260) -/

theorem step_driveReset {s : State} {b : Bool} {ts : List Turn} (h : s.turns = .reset b :: ts) :
    step s = .next ({ s with turns := ts }.driveReset b) :=
  step_of_turn h

theorem State.busAccess_write_held {s : State} (hr : s.inReset = true) (r : Reg) (w : Word) :
    s.busAccess (.write r.offset .w32 w) = .next s := by
  simp [State.busAccess, Access.accepted, r.offset_mod, hr]

/-- A read during reset hands over the next free word (log 7). -/
theorem State.busAccess_read_held {s : State} (hr : s.inReset = true) (r : Reg) :
    s.busAccess (.read r.offset .w32) =
      .next ({ s with freeReads := s.freeReads + 1 }.returned (Config.readInReset s.freeReads)) := by
  simp [State.busAccess, Access.accepted, r.offset_mod, State.busRead, hr]

/-- Settles O33: reset keeps the agents and nothing of the unit; while it is held a write is ignored and
a read moves only the host's and the model's own fields. -/
theorem resetFromAnyState : Obligations.ResetFromAnyState := by
  refine ⟨fun s ts hts => ?_, fun s r w hr => ⟨State.busAccess_write_held hr r w, ?_⟩⟩
  · exact ⟨_, step_driveReset hts, State.driveReset_atReset _, rfl, rfl, rfl, rfl⟩
  · have hregs : s.SameRegs ({ s with freeReads := s.freeReads + 1 }.returned
        (Config.readInReset s.freeReads)) := rfl
    exact ⟨_, _, State.busAccess_read_held hr r, rfl, hregs.readReg⟩

/-! #### The state after reset (R261, R272) -/

/-- Settles O32: the map and the interrupt are `reset_atReset`, the other fields are stored so. -/
theorem resetValues : Obligations.ResetValues :=
  ⟨reset_atReset, rfl, rfl, rfl, rfl, rfl⟩

/-- Settles O28: no error is latched, `DE` is +0, and the registers are those after reset. -/
theorem resetMeetsInv : Obligations.ResetMeetsInv where
  latch := ⟨rfl, rfl⟩
  deNonneg := flt_zero_eq_false (.inr rfl)
  resetHeld := fun _ => reset_atReset

/-- The weights 0.65, 1 and 4 are within [2^-8, 2^8] (R33). -/
theorem reset_weights_ok : State.reset.weights.Ok := by
  intro v hv
  simp only [List.mem_cons, List.not_mem_nil, or_false] at hv
  rcases hv with rfl | rfl | rfl <;> exact ⟨rfl, rfl, rfl⟩

/-- Settles O34: the unit is idle with nothing in STATUS, the bit depth is 8 and the weights are legal. -/
theorem resetIsCleanEntry : Obligations.ResetIsCleanEntry :=
  ⟨rfl, rfl, by decide, reset_weights_ok⟩

/-! #### Restoring the reset values by software (R262) -/

/-- The read-write registers that hold what is written to them (R23, R65): all but `CMD` and `STATUS`. -/
abbrev Reg.Stored (r : Reg) : Prop := r = .ctrl ∨ r.frozen = true

theorem State.readReg_writeReg_of_ne {s : State} (hb : s.busy = false) {r r' : Reg} (hs : r.Stored)
    (hne : r' ≠ r) (w : Word) : (s.writeReg r w).readReg r' = s.readReg r' := by
  obtain rfl | hf := hs
  · exact s.readReg_withIe_of_ne _ hne
  · rw [s.writeReg_frozen hf, State.writeOperand_idle hb, s.readReg_storeReg_of_ne hne]

theorem State.writeReg_idle {s : State} (hb : s.busy = false) {r : Reg} (hs : r.Stored) (w : Word) :
    (s.writeReg r w).busy = false := by
  obtain e | ⟨rfl, -⟩ := s.writeReg_busy r w
  · rw [e, hb]
  · obtain h | h := hs <;> cases h

/-- A reset value has no bit outside the writable ones. -/
theorem readReg_reset_and_writable {r : Reg} (hf : r.frozen = true) :
    State.reset.readReg r &&& r.writable = State.reset.readReg r := by
  cases r with
  | id | ctrl | cmd | status | p | de => cases hf
  | yuv side c | rgb side c | lab side c => cases side <;> cases c <;> rfl
  | _ => rfl

theorem State.readReg_writeReg_reset {s : State} (hb : s.busy = false) {r : Reg} (hs : r.Stored) :
    (s.writeReg r (State.reset.readReg r)).readReg r = State.reset.readReg r := by
  obtain rfl | hf := hs
  · rfl
  · rw [s.writeReg_frozen hf, State.writeOperand_idle hb, s.readReg_storeReg_same hf,
      readReg_reset_and_writable hf]

/-- The state after the listed words are written to their registers, in order. -/
def State.written (s : State) (ws : List (Reg × Word)) : State :=
  ws.foldl (fun st rw => st.writeReg rw.1 rw.2) s

theorem State.written_concat (s : State) (ws : List (Reg × Word)) (r : Reg) (w : Word) :
    s.written (ws ++ [(r, w)]) = (s.written ws).writeReg r w := by
  simp [State.written]

theorem State.written_p_de (s : State) (ws : List (Reg × Word)) :
    (s.written ws).p = s.p ∧ (s.written ws).de = s.de := by
  induction ws generalizing s with
  | nil => exact ⟨rfl, rfl⟩
  | cons rw ws ih =>
    obtain ⟨hp, hde⟩ := ih (s.writeReg rw.1 rw.2)
    obtain ⟨hp', hde', -⟩ := s.writeReg_frame rw.1 rw.2
    exact ⟨hp.trans hp', hde.trans hde'⟩

theorem State.written_idle {ws : List (Reg × Word)} (hws : ∀ rw ∈ ws, rw.1.Stored) {s : State}
    (hb : s.busy = false) : (s.written ws).busy = false := by
  induction ws generalizing s with
  | nil => exact hb
  | cons rw ws ih =>
    obtain ⟨hr, hws⟩ := List.forall_mem_cons.1 hws
    exact ih hws (State.writeReg_idle hb hr rw.2)

/-- Once a register reads as after reset it keeps doing so, since each write stores a reset value. -/
theorem State.readReg_written_reset {ws : List (Reg × Word)}
    (hws : ∀ rw ∈ ws, rw.1.Stored ∧ rw.2 = State.reset.readReg rw.1) {s : State}
    (hb : s.busy = false) {r : Reg}
    (h : s.readReg r = State.reset.readReg r ∨ r ∈ ws.map Prod.fst) :
    (s.written ws).readReg r = State.reset.readReg r := by
  induction ws generalizing s with
  | nil => exact h.resolve_right List.not_mem_nil
  | cons rw ws ih =>
    obtain ⟨⟨hr, hw⟩, hws⟩ := List.forall_mem_cons.1 hws
    refine ih hws (State.writeReg_idle hb hr rw.2) ?_
    obtain rfl | hne := eq_or_ne r rw.1
    · exact .inl (hw ▸ State.readReg_writeReg_reset hb hr)
    · rw [State.readReg_writeReg_of_ne hb hr hne]
      exact h.imp_right (List.mem_of_ne_of_mem hne)

/-- The writes of R262 but that of STATUS, in the order of the map. -/
def restoreWrites : List (Reg × Word) :=
  [(.ctrl, 0), (.cfg, 0), (.kl, 0x3F266666), (.kc, 0x3F800000), (.kh, 0x40800000),
   (.yuv .one .first, 0), (.yuv .one .second, 0), (.yuv .one .third, 0),
   (.yuv .two .first, 0), (.yuv .two .second, 0), (.yuv .two .third, 0),
   (.rgb .one .first, 0), (.rgb .one .second, 0), (.rgb .one .third, 0),
   (.rgb .two .first, 0), (.rgb .two .second, 0), (.rgb .two .third, 0),
   (.lab .one .first, 0), (.lab .one .second, 0), (.lab .one .third, 0),
   (.lab .two .first, 0), (.lab .two .second, 0), (.lab .two .third, 0), (.x, 0)]

theorem restoreWrites_reset :
    ∀ rw ∈ restoreWrites, rw.1.Stored ∧ rw.2 = State.reset.readReg rw.1 := by decide

theorem restoreWrites_idle {s : State} (hb : s.busy = false) :
    (s.written restoreWrites).busy = false :=
  State.written_idle (fun rw h => (restoreWrites_reset rw h).1) hb

theorem Reg.Stored.mem_restoreWrites {r : Reg} (h : r.Stored) : r ∈ restoreWrites.map Prod.fst := by
  cases r with
  | id | cmd | status | p | de => obtain h | h := h <;> cases h
  | yuv side c | rgb side c | lab side c => cases side <;> cases c <;> decide
  | _ => decide

/-- The word 0xE clears every stored bit of STATUS (R65). -/
theorem Status.clear_all (f : Status) : f.clear 0x0000000E = State.reset.status := by
  rw [Status.clear_eq]
  rfl

theorem State.readReg_status_cleared {s : State} (hb : s.busy = false) :
    (s.writeReg .status 0x0000000E).readReg .status = State.reset.readReg .status := by
  simp only [State.writeReg, Status.clear_all, State.readReg, State.statusWord, hb]
  rfl

/-- The state after all the writes of R262. -/
def State.restored (s : State) : State := s.written (restoreWrites ++ [(.status, 0x0000000E)])

theorem State.restored_eq (s : State) :
    s.restored = (s.written restoreWrites).writeReg .status 0x0000000E := s.written_concat _ _ _

/-- Each register but `P` and `DE` is constant, or cleared by the last write, or restored before it. -/
theorem State.readReg_restored {s : State} (hb : s.busy = false) {r : Reg} (hp : r ≠ .p)
    (hde : r ≠ .de) : s.restored.readReg r = State.reset.readReg r := by
  rw [s.restored_eq]
  obtain rfl | hstatus := eq_or_ne r .status
  · exact State.readReg_status_cleared (restoreWrites_idle hb)
  have hsource : s.readReg r = State.reset.readReg r ∨ r.Stored := by
    cases r with
    | p | de | status => contradiction
    | id | cmd => exact .inl rfl
    | ctrl => exact .inr (.inl rfl)
    | _ => exact .inr (.inr rfl)
  calc ((s.written restoreWrites).writeReg .status 0x0000000E).readReg r
    _ = (s.written restoreWrites).readReg r := State.readReg_withStatus_of_ne _ _ _ hstatus
    _ = State.reset.readReg r := State.readReg_written_reset restoreWrites_reset hb
      (hsource.imp_right Reg.Stored.mem_restoreWrites)

/-- Settles O35: the writes store every reset value and clear STATUS, and no write touches `P` or
`DE`. -/
theorem softwareRestoresReset : Obligations.SoftwareRestoresReset := by
  intro s hb
  show (∀ r, r ≠ .p → r ≠ .de → s.restored.readReg r = State.reset.readReg r) ∧
    s.restored.p = s.p ∧ s.restored.de = s.de
  exact ⟨fun _ => State.readReg_restored hb, s.written_p_de _⟩

end Sys2Proof.Machine
end
